-- ==== Sys2Proof/Word.lean ====
section
/-! DEFINITION. The word types of the DVDSP core. A command word is 64 bits; every register and every delay-memory
cell is 32 bits; bit 0 is the least significant bit (spec/00_scope.md R13, R14). -/

namespace Sys2Proof

/-- One byte of the byte-oriented channel between host and core (spec/20_memory.md R83). -/
abbrev Byte := BitVec 8

/-- A sample register, a unit register or a delay cell: a 32-bit pattern without a type of its own
(spec/00_scope.md R14). -/
abbrev Word := BitVec 32

/-- A word that a rule reads as an IEEE 754 binary32 pattern (spec/00_scope.md R14, R22). -/
abbrev F32 := BitVec 32

/-- A command word `C[63:0]` (spec/00_scope.md R13, spec/30_encoding.md R100). -/
abbrev CommandWord := BitVec 64

end Sys2Proof
end

