-- ==== Sys2Proof/Config.lean ====
section
/-! DEFINITION. What an implementation fixes. The implementation parameters of spec/00_scope.md R8 are the fields of one
record, RawParams, which the whole model takes as an argument; Machine/Params.lean says which records are well formed and
names the spec's default one as the configuration of the core handed to the host. Below them stand the values that the
spec leaves open, each an opaque constant without a body: the four NUM functions (R30) and the sign and payload of a
generated NaN (R25). -/

namespace Sys2Proof

/-- The five basic operations of spec/00_scope.md R23, as names for the operation that generated a NaN. -/
inductive FloatOp
  | add
  | sub
  | mul
  | div
  | sqrt
deriving DecidableEq, Repr

/-- One reverberator preset record (spec/45_reverberator.md R243). -/
structure Preset where
  /-- LEN48[0..5]: delays in samples at 48000 Hz of the four diffusers and the left and right combs. -/
  len48 : Vector Nat 6
  fLow : F32
  fHigh : F32
  fDamp : F32
  kap : F32
  kcomb : F32
deriving DecidableEq, Repr

/-- The implementation parameters (spec/00_scope.md R8, R10), one field per row that is not fixed by the encoding; the row
NUM is the four free functions at the end of this file. Bounds and cutoffs are binary32 patterns (R9). -/
structure RawParams where
  /-- NDL, the delay lines. -/
  ndl : Nat
  /-- DL_LOG2[d], log2 of the capacity of delay line `d` (R11). -/
  dlLog2 : List Nat
  /-- NOP, the one-pole units. -/
  nop : Nat
  /-- NBQ, the biquad units. -/
  nbq : Nat
  /-- NENV, the envelope units. -/
  nenv : Nat
  /-- NLM, the level meters. -/
  nlm : Nat
  /-- NPRESET, the reverberator presets. -/
  npreset : Nat
  /-- FS_MIN in hertz. -/
  fsMin : Nat
  /-- FS_MAX in hertz. -/
  fsMax : Nat
  /-- FS_DEFAULT in hertz. -/
  fsDefault : Nat
  /-- CONTROL_RATE_HZ. -/
  controlRateHz : Nat
  /-- TIME_TABLE[0..127]. -/
  timeTable : List Nat
  /-- KMAX. -/
  kMax : F32
  /-- FCR_MAX. -/
  fcrMax : F32
  /-- FC_MIN. -/
  fcMin : F32
  /-- Q_MIN. -/
  qMin : F32
  /-- Q_MAX. -/
  qMax : F32
  /-- GAIN_MAX. -/
  gainMax : F32
  /-- LM_EPS. -/
  lmEps : F32
  /-- DB_FLOOR. -/
  dbFloor : F32
  /-- KRT_MIN. -/
  krtMin : F32
  /-- KRT_SPAN. -/
  krtSpan : F32
  /-- KFB_MAX. -/
  kfbMax : F32
  /-- PRESET[p]. -/
  presets : List Preset
  /-- RV_ECHO_LEN48, in samples at 48000 Hz. -/
  rvEchoLen48 : Nat
  /-- RV_FECHO. -/
  rvFecho : F32
deriving DecidableEq, Repr

namespace Config

/-! ## What the encoding fixes (R8) -/

/-- NX, the sample registers. -/
abbrev NX : Nat := 16
/-- NK, the allpass coefficient registers. -/
abbrev NK : Nat := 16
/-- NP, the mailbox registers. -/
abbrev NP : Nat := 32

/-! ## The default presets (spec/45_reverberator.md R243) -/

/-- Preset 0, ROOM. -/
def room : Preset :=
  { len48 := ⟨#[151, 113, 383, 281, 2659, 2999], rfl⟩
    fLow := 0x43960000#32, fHigh := 0x457A0000#32, fDamp := 0x45BB8000#32
    kap := 0x3F000000#32, kcomb := 0x00000000#32 }

/-- Preset 1, HALL. -/
def hall : Preset :=
  { len48 := ⟨#[211, 157, 563, 409, 4451, 5209], rfl⟩
    fLow := 0x43480000#32, fHigh := 0x459C4000#32, fDamp := 0x457A0000#32
    kap := 0x3F200000#32, kcomb := 0x3F000000#32 }

/-! ## The default time table (spec/43_envelope.md R192), rows of eight joined -/

def timeRows0 : List Nat :=
  [65535, 61241, 57229, 53480, 49976, 46702, 43642, 40783] ++
  [38111, 35614, 33281, 31101, 29063, 27159, 25380, 23717] ++
  [22163, 20711, 19354, 18086, 16901, 15794, 14759, 13792] ++
  [12889, 12044, 11255, 10518, 9829, 9185, 8583, 8021]

def timeRows4 : List Nat :=
  [7495, 7004, 6545, 6117, 5716, 5341, 4991, 4664] ++
  [4359, 4073, 3806, 3557, 3324, 3106, 2903, 2713] ++
  [2535, 2369, 2214, 2069, 1933, 1806, 1688, 1577] ++
  [1474, 1378, 1287, 1203, 1124, 1050, 982, 917]

def timeRows8 : List Nat :=
  [857, 801, 749, 700, 654, 611, 571, 533] ++
  [499, 466, 435, 407, 380, 355, 332, 310] ++
  [290, 271, 253, 237, 221, 207, 193, 180] ++
  [169, 158, 147, 138, 129, 120, 112, 105]

def timeRows12 : List Nat :=
  [98, 92, 86, 80, 75, 70, 65, 61] ++
  [57, 53, 50, 47, 43, 41, 38, 35] ++
  [33, 31, 29, 27, 25, 24, 22, 21] ++
  [19, 18, 17, 16, 15, 14, 13, 12]

/-- The default TIME_TABLE[0..127] (R192). -/
def timeTable : List Nat := timeRows0 ++ timeRows4 ++ timeRows8 ++ timeRows12

/-! ## The defaults (R8) -/

/-- Every parameter at the spec's default value. -/
@[reducible] def defaultRaw : RawParams :=
  { ndl := 2, dlLog2 := [17, 16], nop := 8, nbq := 8, nenv := 4, nlm := 4, npreset := 2
    fsMin := 8000, fsMax := 96000, fsDefault := 48000, controlRateHz := 1000
    timeTable := timeTable
    kMax := 0x3F7C0000#32     -- 63/64
    fcrMax := 0x3EF00000#32   -- 15/32
    fcMin := 0x3F800000#32    -- 1.0 Hz
    qMin := 0x3D800000#32     -- 1/16
    qMax := 0x42800000#32     -- 64.0
    gainMax := 0x42200000#32  -- 40.0 dB
    lmEps := 0x30800000#32    -- 2^-30
    dbFloor := 0xC2C00000#32  -- -96.0 dB
    krtMin := 0x3E800000#32   -- 0.25
    krtSpan := 0x3F200000#32  -- 0.625
    kfbMax := 0x3F700000#32   -- 15/16
    presets := [room, hall]
    rvEchoLen48 := 24000
    rvFecho := 0x453B8000#32 }  -- 3000.0 Hz

/-! ## The open values

Each is a constant without a body: nothing can be proved of its value, so a claim proved about the model holds for every
value of it. -/

/-- The raw exponential: an arbitrary function, held to the named properties of spec/00_scope.md R30 by `numExp` of
Sys2Proof/Machine/Num.lean. A free value; notes/assumptions/3.md. -/
opaque rawExp : F32 → F32

/-- The raw tangent, held to R30 by `numTan`. A free value; notes/assumptions/3.md. -/
opaque rawTan : F32 → F32

/-- The raw base-10 logarithm, held to R30 by `numLog10`. A free value; notes/assumptions/3.md. -/
opaque rawLog10 : F32 → F32

/-- The raw power of ten, held to R30 by `numPow10`. A free value; notes/assumptions/3.md. -/
opaque rawPow10 : F32 → F32

/-- Sign (bit 22) and payload (bits 21..0) of the quiet NaN that an operation on these operands returns
(spec/00_scope.md R25, spec/93_implementation_defined.md U3). A free value; notes/assumptions/2.md. -/
opaque nanChoice : FloatOp → F32 → F32 → BitVec 23

end Config

end Sys2Proof
end

