-- ==== Sys2Proof/Syntax.lean ====
section
/-! DEFINITION. The commands of the DVDSP core: one constructor for each of the 38 rows of spec/30_encoding.md R105, its
arguments the fields that row uses. A register field admits all sixteen values and a K field all sixteen, so both are
`Fin 16`; a selector with names (R111) is an inductive type; a unit field, a preset, a pre-filter selector and a register
address are kept as the encoding's bits and held to their range by Sys2Proof/WellFormed.lean. -/

namespace Sys2Proof

/-- A sample register x0..x15 (spec/10_state.md R41, spec/30_encoding.md R103). -/
abbrev Reg := Fin Config.NX

/-- A coefficient register K[0..15] (spec/10_state.md R48). -/
abbrev KReg := Fin Config.NK

/-- The 8-bit unit field (spec/30_encoding.md R104). -/
abbrev UnitField := BitVec 8

/-- The biquad types in code order 0..6 (spec/10_state.md R53). -/
inductive BiquadType
  | lpf
  | bpf
  | hpf
  | notch
  | peak
  | lowshelf
  | highshelf
deriving DecidableEq, Repr

/-- The envelope modes in code order 0..2 (spec/10_state.md R61). -/
inductive EnvMode
  | adsr
  | ar
  | lfo
deriving DecidableEq, Repr

/-- The ENV.TIME selectors 0..2 (spec/43_envelope.md R194). -/
inductive TimeSel
  | attack
  | decay
  | release
deriving DecidableEq, Repr

/-- The LM.RD selectors 0..5 (spec/44_levelmeter.md R225). -/
inductive ReadSel
  | level
  | peak
  | levelDb
  | peakDb
  | hold
  | light
deriving DecidableEq, Repr

/-- The RV.PARAM selectors 0..5 (spec/45_reverberator.md R246). -/
inductive ParamSel
  | tone
  | size
  | feedback
  | dry
  | reverb
  | echo
deriving DecidableEq, Repr

/-- The commands, in the order of the opcode table. -/
inductive Instr
  /-- NOP (R120). -/
  | nop
  /-- RESET (R121). -/
  | reset
  /-- SETFS #hz (R122). -/
  | setfs (hz : Word)
  /-- CSTEP xd (R124). -/
  | cstep (rd : Reg)
  /-- LDI xd, #pattern (R125). -/
  | ldi (rd : Reg) (imm : Word)
  /-- MOV xd, xs (R129). -/
  | mov (rd rs1 : Reg)
  /-- RDREG xd, #addr (R126). -/
  | rdreg (rd : Reg) (addr : BitVec 16)
  /-- WRREG xs, #addr (R127). -/
  | wrreg (rs1 : Reg) (addr : BitVec 16)
  /-- SETK kN, xs (R128). -/
  | setk (k : KReg) (rs1 : Reg)
  /-- DL.ROT dlD (R142). -/
  | dlRot (d : UnitField)
  /-- DL.WR dlD, xs, #off (R144). -/
  | dlWr (d : UnitField) (rs1 : Reg) (off : Word)
  /-- DL.RD xd, dlD, #off (R145). -/
  | dlRd (rd : Reg) (d : UnitField) (off : Word)
  /-- DL.RDI xd, dlD, #qoff (R146). -/
  | dlRdi (rd : Reg) (d : UnitField) (qoff : Word)
  /-- DL.AP xd, dlD, kN, #in,#out (R147). -/
  | dlAp (rd : Reg) (d : UnitField) (k : KReg) (inOff outOff : BitVec 16)
  /-- DL.CLR dlD (R149). -/
  | dlClr (d : UnitField)
  /-- OP.SET opU, xs (R161). -/
  | opSet (u : UnitField) (rs1 : Reg)
  /-- OP.LP xd, xs, opU (R163). -/
  | opLp (rd rs1 : Reg) (u : UnitField)
  /-- OP.HP xd, xs, opU (R164). -/
  | opHp (rd rs1 : Reg) (u : UnitField)
  /-- OP.RST opU (R169). -/
  | opRst (u : UnitField)
  /-- BQ.CFG bqU, TYPE, xfc, xq, xgain (R165); the gain register stands in the rd field as rs3. -/
  | bqCfg (u : UnitField) (ty : BiquadType) (rfc rq rgain : Reg)
  /-- BQ.PROC xd, xs, bqU (R168). -/
  | bqProc (rd rs1 : Reg) (u : UnitField)
  /-- BQ.RST bqU (R170). -/
  | bqRst (u : UnitField)
  /-- ENV.MODE envE, MODE (R193). -/
  | envMode (e : UnitField) (m : EnvMode)
  /-- ENV.TIME envE, SEL, xs (R194). -/
  | envTime (e : UnitField) (sel : TimeSel) (rs1 : Reg)
  /-- ENV.SUS envE, xs (R195). -/
  | envSus (e : UnitField) (rs1 : Reg)
  /-- ENV.TICK xd, envE, #gate (R197). -/
  | envTick (rd : Reg) (e : UnitField) (gate : Bool)
  /-- ENV.RDF xd, envE (R199). -/
  | envRdf (rd : Reg) (e : UnitField)
  /-- ENV.RST envE (R200). -/
  | envRst (e : UnitField)
  /-- TLOOKUP xd, xs (R196). -/
  | tlookup (rd rs1 : Reg)
  /-- LM.CFG lmM, xs, PRE, #hold (R220). -/
  | lmCfg (m : UnitField) (rs1 : Reg) (presel : BitVec 4) (hold : Word)
  /-- LM.PROC lmM, xs (R223). -/
  | lmProc (m : UnitField) (rs1 : Reg)
  /-- LM.RD xd, lmM, SEL (R225). -/
  | lmRd (rd : Reg) (m : UnitField) (sel : ReadSel)
  /-- LM.RST lmM (R227). -/
  | lmRst (m : UnitField)
  /-- RV.CHAR PRESET (R242). -/
  | rvChar (preset : BitVec 4)
  /-- RV.PARAM SEL, xs (R246). -/
  | rvParam (sel : ParamSel) (rs1 : Reg)
  /-- RV.ETIME #qtime (R247). -/
  | rvEtime (qtime : Word)
  /-- RV.PROC xl, xr, xs (R248); the right destination stands in the rs2 field as rd2. -/
  | rvProc (rl rr rs1 : Reg)
  /-- RV.RST (R255). -/
  | rvRst
deriving DecidableEq, Repr

end Sys2Proof
end

