-- ==== Sys2Proof/Machine/Codes.lean ====
section
/-! DEFINITION. The numeric codes of the named selectors and modes, as the funct field carries them and as RDREG shows
them (spec/30_encoding.md R111, spec/10_state.md R53, R61, R62), and the envelope states. -/

namespace Sys2Proof.Machine

/-- The envelope states ST in code order 0..4 (spec/10_state.md R62). -/
inductive EnvState
  | idle
  | attack
  | decay
  | sustain
  | release
deriving DecidableEq, Repr

/-- TYPE code (R53). -/
def biquadTypeCode : BiquadType → BitVec 4
  | .lpf => 0#4
  | .bpf => 1#4
  | .hpf => 2#4
  | .notch => 3#4
  | .peak => 4#4
  | .lowshelf => 5#4
  | .highshelf => 6#4

/-- The type a funct code selects; 7 and above select none (R165). -/
def biquadTypeOf (c : BitVec 4) : Option BiquadType :=
  match c.toNat with
  | 0 => some .lpf
  | 1 => some .bpf
  | 2 => some .hpf
  | 3 => some .notch
  | 4 => some .peak
  | 5 => some .lowshelf
  | 6 => some .highshelf
  | _ => none

/-- MODE code (R61). -/
def envModeCode : EnvMode → BitVec 4
  | .adsr => 0#4
  | .ar => 1#4
  | .lfo => 2#4

/-- The mode a funct code selects; 3 and above select none (R193). -/
def envModeOf (c : BitVec 4) : Option EnvMode :=
  match c.toNat with
  | 0 => some .adsr
  | 1 => some .ar
  | 2 => some .lfo
  | _ => none

/-- ENV.TIME selector code (R111). -/
def timeSelCode : TimeSel → BitVec 4
  | .attack => 0#4
  | .decay => 1#4
  | .release => 2#4

/-- The ENV.TIME selector of a funct code; 3 and above select none (R194). -/
def timeSelOf (c : BitVec 4) : Option TimeSel :=
  match c.toNat with
  | 0 => some .attack
  | 1 => some .decay
  | 2 => some .release
  | _ => none

/-- LM.RD selector code (R111). -/
def readSelCode : ReadSel → BitVec 4
  | .level => 0#4
  | .peak => 1#4
  | .levelDb => 2#4
  | .peakDb => 3#4
  | .hold => 4#4
  | .light => 5#4

/-- The LM.RD selector of a funct code; 6 and above select none (R225). -/
def readSelOf (c : BitVec 4) : Option ReadSel :=
  match c.toNat with
  | 0 => some .level
  | 1 => some .peak
  | 2 => some .levelDb
  | 3 => some .peakDb
  | 4 => some .hold
  | 5 => some .light
  | _ => none

/-- RV.PARAM selector code (R111). -/
def paramSelCode : ParamSel → BitVec 4
  | .tone => 0#4
  | .size => 1#4
  | .feedback => 2#4
  | .dry => 3#4
  | .reverb => 4#4
  | .echo => 5#4

/-- The RV.PARAM selector of a funct code; 6 and above select none (R246). -/
def paramSelOf (c : BitVec 4) : Option ParamSel :=
  match c.toNat with
  | 0 => some .tone
  | 1 => some .size
  | 2 => some .feedback
  | 3 => some .dry
  | 4 => some .reverb
  | 5 => some .echo
  | _ => none

/-- ST code (R62). -/
def envStateCode : EnvState → Nat
  | .idle => 0
  | .attack => 1
  | .decay => 2
  | .sustain => 3
  | .release => 4

/-- The state of an ST code; 5 and above name none (R62, R73). -/
def envStateOf (c : Nat) : Option EnvState :=
  match c with
  | 0 => some .idle
  | 1 => some .attack
  | 2 => some .decay
  | 3 => some .sustain
  | 4 => some .release
  | _ => none

end Sys2Proof.Machine
end

