-- ==== Sys2Proof/Machine/Float.lean ====
section
/-! DEFINITION. The binary32 primitives of spec/00_scope.md R22 to R29 and R31, R32: every finite pattern is read as an
exact integer number of units of 2^-149 (the smallest subnormal), an operation computes the exact result in that unit, and
one rounding function gives the nearest pattern, ties to even. -/

namespace Sys2Proof.Machine

/-! ## Reading a pattern -/

/-- The sign, bit 31. -/
def fsign (a : F32) : Bool := decide (0x80000000 ≤ a.toNat)

/-- The magnitude bits 30..0. -/
def fmag (a : F32) : Nat := a.toNat % 0x80000000

/-- The magnitude bits of an infinity. -/
def infMag : Nat := 0x7F800000

/-- A NaN: exponent all ones and a non-zero fraction. -/
def isNaN (a : F32) : Bool := decide (infMag < fmag a)

/-- An infinity of either sign. -/
def isInf (a : F32) : Bool := decide (fmag a = infMag)

/-- A zero of either sign. -/
def isZero (a : F32) : Bool := decide (fmag a = 0)

/-- Neither NaN nor infinity. -/
def isFinite (a : F32) : Bool := decide (fmag a < infMag)

/-- The exact value of finite magnitude bits, in units of 2^-149. -/
def unitsOfMag (m : Nat) : Nat :=
  if m < 0x800000 then m else (0x800000 + m % 0x800000) * 2 ^ (m / 0x800000 - 1)

/-- The exact magnitude of a finite pattern, in units of 2^-149. -/
def funits (a : F32) : Nat := unitsOfMag (fmag a)

/-- The exact signed value of a finite pattern, in units of 2^-149. -/
def fvalue (a : F32) : Int := if fsign a then -(funits a : Int) else (funits a : Int)

/-! ## Building a pattern -/

/-- The pattern with this sign and these magnitude bits. -/
def pack (neg : Bool) (m : Nat) : F32 := BitVec.ofNat 32 (if neg then 0x80000000 + m else m)

/-- The integer nearest `n / d`, ties to even. -/
def divNearestEven (n d : Nat) : Nat :=
  let q := n / d
  let r := n % d
  if d < 2 * r ∨ (d = 2 * r ∧ q % 2 = 1) then q + 1 else q

/-- The magnitude bits nearest the exact magnitude `n / d` units of 2^-149: round to nearest, ties to even, subnormals
kept, overflow to infinity (R23). `k` is how far the leading bit stands above bit 23; a rounding that carries past bit 23
runs into the exponent field, as it must. -/
def roundMag (n d : Nat) : Nat :=
  let k := Nat.log2 (n / d) - 23
  min (k * 0x800000 + divNearestEven n (d * 2 ^ k)) infMag

/-- The quiet NaN whose sign is bit 22 and whose payload is bits 21..0 of `c` (R25). -/
def quietNaN (c : BitVec 23) : F32 := pack (decide (0x400000 ≤ c.toNat)) (0x7FC00000 + c.toNat % 0x400000)

/-- The NaN that an operation generates: a quiet NaN of unspecified sign and payload (R25; notes/assumptions/2.md). -/
def nanOf (op : FloatOp) (a b : F32) : F32 := quietNaN (Config.nanChoice op a b)

/-! ## Sign operations (R24) -/

/-- `fneg`: flips bit 31. -/
def fneg (a : F32) : F32 := a ^^^ 0x80000000#32

/-- `fabs`: clears bit 31. -/
def fabs (a : F32) : F32 := a &&& 0x7FFFFFFF#32

/-! ## The basic operations (R23) -/

/-- `fadd`. An exact zero sum is +0 unless both operands are negative zeros. -/
def fadd (a b : F32) : F32 :=
  if isNaN a || isNaN b then nanOf .add a b
  else if isInf a then (if isInf b && (fsign a != fsign b) then nanOf .add a b else a)
  else if isInf b then b
  else
    let v := fvalue a + fvalue b
    if v = 0 then pack (fsign a && fsign b) 0 else pack (decide (v < 0)) (roundMag v.natAbs 1)

/-- `fsub`: the sum with the negated second operand, a NaN result being its own. -/
def fsub (a b : F32) : F32 :=
  if isNaN a || isNaN b || (isInf a && isInf b && (fsign a == fsign b)) then nanOf .sub a b
  else fadd a (fneg b)

/-- `fmul`. -/
def fmul (a b : F32) : F32 :=
  let neg := fsign a != fsign b
  if isNaN a || isNaN b || (isInf a && isZero b) || (isZero a && isInf b) then nanOf .mul a b
  else if isInf a || isInf b then pack neg infMag
  else pack neg (roundMag (funits a * funits b) (2 ^ 149))

/-- `fdiv`. A non-zero finite number over zero is an infinity; 0/0 and ∞/∞ are invalid. -/
def fdiv (a b : F32) : F32 :=
  let neg := fsign a != fsign b
  if isNaN a || isNaN b || (isInf a && isInf b) || (isZero a && isZero b) then nanOf .div a b
  else if isInf a || isZero b then pack neg infMag
  else if isInf b then pack neg 0
  else pack neg (roundMag (funits a * 2 ^ 149) (funits b))

/-- The largest `r` below `base + 2^bits` with `r * r ≤ n`, given that `base` is one: bit by bit from the top. -/
def isqrtBits (n : Nat) : Nat → Nat → Nat
  | 0, base => base
  | bits + 1, base =>
    if (base + 2 ^ bits) * (base + 2 ^ bits) ≤ n then isqrtBits n bits (base + 2 ^ bits) else isqrtBits n bits base

/-- The integer square root, rounded down. -/
def isqrt (n : Nat) : Nat := isqrtBits n (Nat.log2 n / 2 + 1) 0

/-- The magnitude bits nearest the square root of `n` (a square in units of 2^-298), ties to even: with the exponent `k`
of the result fixed, the result is `q` or `q + 1` times 2^k, whichever is nearer. -/
def sqrtMag (n : Nat) : Nat :=
  let k := Nat.log2 (isqrt n) - 23
  let q := isqrt (n / 4 ^ k)
  k * 0x800000 + (if (2 * q + 1) * (2 * q + 1) * 4 ^ k < 4 * n
      ∨ ((2 * q + 1) * (2 * q + 1) * 4 ^ k = 4 * n ∧ q % 2 = 1) then q + 1 else q)

/-- `fsqrt`. The root of a zero is that zero; of any other negative number, invalid. -/
def fsqrt (a : F32) : F32 :=
  if isNaN a then nanOf .sqrt a a
  else if isZero a then a
  else if fsign a then nanOf .sqrt a a
  else if isInf a then a
  else pack false (sqrtMag (funits a * 2 ^ 149))

/-! ## Comparisons (R26) -/

/-- The place of a non-NaN pattern in the order of values; both zeros stand at 0. -/
def forder (a : F32) : Int := if fsign a then -(fmag a : Int) else (fmag a : Int)

/-- `flt`: quiet `<`. -/
def flt (a b : F32) : Bool := !isNaN a && !isNaN b && decide (forder a < forder b)

/-- `fle`: quiet `≤`. -/
def fle (a b : F32) : Bool := !isNaN a && !isNaN b && decide (forder a ≤ forder b)

/-- `fgt`: quiet `>`. -/
def fgt (a b : F32) : Bool := flt b a

/-- `fge`: quiet `≥`. -/
def fge (a b : F32) : Bool := fle b a

/-! ## Constants (R31) -/

def fZero : F32 := 0x00000000#32
def fHalf : F32 := 0x3F000000#32
def fOne : F32 := 0x3F800000#32
def fTwo : F32 := 0x40000000#32
def fMinusTwo : F32 := 0xC0000000#32
def fTwenty : F32 := 0x41A00000#32
def f127 : F32 := 0x42FE0000#32
def f65535 : F32 := 0x477FFF00#32
/-- 2^-12. -/
def fTwoPowM12 : F32 := 0x39800000#32
def fPi : F32 := 0x40490FDB#32
def fTwoPi : F32 := 0x40C90FDB#32
def fSqrt2 : F32 := 0x3FB504F3#32
def fSqrt1_2 : F32 := 0x3F3504F3#32
def fInf : F32 := 0x7F800000#32
/-- The largest finite value. -/
def fMaxFinite : F32 := 0x7F7FFFFF#32

/-! ## Clamps (R27) -/

/-- `clampf(v, lo, hi)`: a NaN gives `lo`; a value inside the range is returned bit for bit. -/
def clampf (v lo hi : F32) : F32 := if fge v lo then (if fle v hi then v else hi) else lo

/-- `clamp01`. -/
def clamp01 (v : F32) : F32 := clampf v fZero fOne

/-! ## Conversions (R28, R29, R32) -/

/-- `u2f`: the binary32 value nearest a natural number. -/
def u2f (n : Nat) : F32 := pack false (roundMag (n * 2 ^ 149) 1)

/-- `i2f`: the same for a signed number. -/
def i2f (n : Int) : F32 := pack (decide (n < 0)) (roundMag (n.natAbs * 2 ^ 149) 1)

/-- `rhaz`: round half away from zero, exactly on the real value; 0 for a NaN (R29). An infinity never reaches it. -/
def rhaz (v : F32) : Int :=
  if isNaN v then 0
  else
    let m : Nat := (2 * funits v + 2 ^ 149) / 2 ^ 150
    if fsign v then -(m : Int) else (m : Int)

/-- `frac12`: a 12-bit fraction as a float (R32). -/
def frac12 (fr : Nat) : F32 := fmul (u2f fr) fTwoPowM12

/-! ## Integer clamp (R17) -/

/-- `clampu(v, lo, hi) = min(max(v, lo), hi)`. -/
def clampu (v lo hi : Nat) : Nat := min (max v lo) hi

end Sys2Proof.Machine
end

