-- ==== Sys2Proof/Machine/Params.lean ====
section
/-! DEFINITION. The configurations the model accepts (spec/00_scope.md R8, R10 to R12, spec/43_envelope.md R191,
spec/45_reverberator.md R243): a configuration is a parameter record together with the proof that it meets every
constraint, so an ill-formed one is refused by construction (spec/93_implementation_defined.md U8). Every definition of the
machine below takes a configuration; the core handed to the host is the one at the spec's defaults. -/

namespace Sys2Proof

/-! ## The reverberator's layout (spec/45_reverberator.md R244), which a constraint speaks of -/

/-- D[6], the delay of the echo region at rate `fs`, which does not depend on the preset. -/
def RawParams.echoDelay (r : RawParams) (fs : Nat) : Nat := max 4 ((r.rvEchoLen48 * fs) / 48000)

/-- D[i] of a preset at rate `fs`. -/
def RawParams.delayOf (r : RawParams) (q : Preset) (fs i : Nat) : Nat :=
  if h : i < 6 then max 1 ((q.len48[i] * fs) / 48000) else r.echoDelay fs

/-- S[i] of a preset at rate `fs`; S[7] is one past the last region. -/
def RawParams.boundaryOf (r : RawParams) (q : Preset) (fs : Nat) : Nat → Nat
  | 0 => 0
  | i + 1 => r.boundaryOf q fs i + r.delayOf q fs i + 1

/-! ## The constraints -/

namespace Machine

/-- A finite number above zero. -/
def positiveFinite (v : F32) : Bool := isFinite v && flt fZero v

/-- A number in [0, 1). -/
def belowOne (v : F32) : Bool := fle fZero v && flt v fOne

/-- The constraints of R191 on a time table: 128 entries in 1..65535, non-increasing. -/
def timeTableOk (t : List Nat) : Bool :=
  decide (t.length = 128) && t.all (fun e => decide (1 ≤ e ∧ e ≤ 65535))
    && (t.zip t.tail).all (fun e => decide (e.2 ≤ e.1))

/-- The constraints of R243 and R12 on a preset record. S[7] grows with the rate, so R12 at FS_MAX is R12 at every legal
rate (Sys2Proof/Laws/Params.lean). -/
def presetOk (r : RawParams) (q : Preset) : Bool :=
  q.len48.toList.all (fun l => decide (1 ≤ l)) && positiveFinite q.fLow && positiveFinite q.fHigh
    && positiveFinite q.fDamp && fle (fabs q.kap) r.kMax && fle (fabs q.kcomb) r.kMax
    && decide (r.boundaryOf q r.fsMax 7 ≤ 2 ^ r.dlLog2.getD 0 0 - 1)

end Machine

open Machine

/-- The counts and capacities are in the ranges of R8. -/
def RawParams.countsOk (r : RawParams) : Bool :=
  decide (1 ≤ r.ndl ∧ r.ndl ≤ 256 ∧ r.dlLog2.length = r.ndl) && r.dlLog2.all (fun l => decide (1 ≤ l ∧ l ≤ 20))
    && decide (5 ≤ r.nop ∧ r.nop ≤ 256 ∧ 1 ≤ r.nbq ∧ r.nbq ≤ 15 ∧ 1 ≤ r.nenv ∧ r.nenv ≤ 256 ∧ 1 ≤ r.nlm ∧ r.nlm ≤ 256)
    && decide (1 ≤ r.npreset ∧ r.npreset ≤ 16 ∧ r.presets.length = r.npreset)

/-- The rates are in the ranges of R8. -/
def RawParams.ratesOk (r : RawParams) : Bool :=
  decide (r.controlRateHz ≤ r.fsMin ∧ r.fsMax < 2 ^ 24 ∧ r.fsMin ≤ r.fsDefault ∧ r.fsDefault ≤ r.fsMax
    ∧ 100 ≤ r.controlRateHz ∧ r.controlRateHz ≤ 1000)

/-- The binary32 bounds are in the ranges of R8. DEDUCED, notes/assumptions/1.md: sums and products in them are exact, the
numbers are finite, and DB_FLOOR is at most 0, as R27 needs of a clamp to [DB_FLOOR, +0.0]. DESIGN CHOICE,
notes/assumptions/14.md: KRT_SPAN has no lower bound, as R8's column gives none, although R254 reads KRT_MIN + KRT_SPAN as
the largest KRT; so a negative KRT_SPAN is accepted, and with it a KRT_MIN of 1 or more. -/
def RawParams.boundsOk (r : RawParams) : Bool :=
  flt fZero r.kMax && flt r.kMax fOne
    && flt fZero r.fcrMax && flt r.fcrMax fHalf
    && positiveFinite r.fcMin && decide (fvalue r.fcMin ≤ r.fsMin * fvalue r.fcrMax)
    && flt fZero r.qMin && fle r.qMin r.qMax && isFinite r.qMax
    && positiveFinite r.gainMax && positiveFinite r.lmEps && isFinite r.dbFloor && fle r.dbFloor fZero
    && fle fZero r.krtMin && isFinite r.krtMin && isFinite r.krtSpan
    && decide (fvalue r.krtMin + fvalue r.krtSpan < fvalue fOne)
    && belowOne r.kfbMax && positiveFinite r.rvFecho

/-- Every constraint of R8, R12, R191 and R243. -/
def RawParams.check (r : RawParams) : Bool :=
  r.countsOk && r.ratesOk && r.boundsOk && timeTableOk r.timeTable && r.presets.all (presetOk r)

/-- A configuration: a parameter record that meets every constraint. -/
structure Params extends RawParams where
  /-- The record is well formed. -/
  ok : toRawParams.check = true

/-- The configuration of a record; none where the record is ill formed (R12, U8). -/
def Params.ofRaw (r : RawParams) : Option Params :=
  if h : r.check = true then some { toRawParams := r, ok := h } else none

/-- The configuration of the core handed to the host: every parameter at the spec's default (notes/assumptions/1.md). -/
@[reducible] def Config.default : Params := { toRawParams := Config.defaultRaw, ok := by decide +kernel }

/-! ## What a well-formed record gives -/

theorem Params.counts (cfg : Params) :
    1 ≤ cfg.ndl ∧ cfg.ndl ≤ 256 ∧ 5 ≤ cfg.nop ∧ cfg.nop ≤ 256 ∧ cfg.nbq ≤ 15 ∧ cfg.nenv ≤ 256 ∧ cfg.nlm ≤ 256
      ∧ 1 ≤ cfg.npreset ∧ cfg.npreset ≤ 16 ∧ cfg.presets.length = cfg.npreset ∧ cfg.dlLog2.length = cfg.ndl := by
  have h := cfg.ok
  simp only [RawParams.check, RawParams.countsOk, Bool.and_eq_true, decide_eq_true_eq] at h
  omega

/-- Delay line 0, which the reverberator uses (spec/10_state.md R70). -/
def Params.line0 (cfg : Params) : Fin cfg.ndl := ⟨0, cfg.counts.1⟩

/-- The one-pole units 0 to 4, which the reverberator borrows (R70). -/
def Params.borrowed (cfg : Params) (u : Fin 5) : Fin cfg.nop := ⟨u.val, Nat.lt_of_lt_of_le u.isLt cfg.counts.2.2.1⟩

/-- Preset 0, which reset selects (spec/10_state.md R67). -/
def Params.preset0 (cfg : Params) : Fin cfg.npreset := ⟨0, cfg.counts.2.2.2.2.2.2.2.1⟩

/-- PRESET[p] (spec/45_reverberator.md R243). -/
def Params.preset (cfg : Params) (p : Fin cfg.npreset) : Preset :=
  cfg.presets[p.val]'(by have := cfg.counts; have := p.isLt; omega)

/-- CAP[d] = 2^DL_LOG2[d] cells (R11). -/
def Params.cap (cfg : Params) (d : Fin cfg.ndl) : Nat := 2 ^ cfg.dlLog2.getD d.val 0

namespace Config

/-! ## The counts, capacities and presets at the defaults -/

/-- NDL. -/
abbrev NDL : Nat := default.ndl
/-- NOP. -/
abbrev NOP : Nat := default.nop
/-- NBQ. -/
abbrev NBQ : Nat := default.nbq
/-- NENV. -/
abbrev NENV : Nat := default.nenv
/-- NLM. -/
abbrev NLM : Nat := default.nlm
/-- NPRESET. -/
abbrev NPRESET : Nat := default.npreset
/-- CAP[d]. -/
abbrev cap (d : Fin NDL) : Nat := default.cap d
/-- PRESET[p]. -/
abbrev preset (p : Fin NPRESET) : Preset := default.preset p

end Config

end Sys2Proof
end

