-- ==== Sys2Proof/Machine/RegMap.lean ====
section
/-! DEFINITION. The register space of spec/10_state.md R71 and R72: which register a 16-bit address names, and which
registers WRREG may write. The counts are those of the configuration (spec/00_scope.md R10). -/

namespace Sys2Proof.Machine

/-- The mapped registers of a configuration, one constructor per row and field of R72. -/
inductive RegName (cfg : Params := Config.default)
  | id
  | status
  | errinfo
  | fs
  | fsf
  | ctrlDiv
  | ctrlCnt
  | dlDp (d : Fin cfg.ndl)
  | dlLog2 (d : Fin cfg.ndl)
  | opFc (u : Fin cfg.nop)
  | opA0 (u : Fin cfg.nop)
  | opZ1 (u : Fin cfg.nop)
  | bqType (u : Fin cfg.nbq)
  | bqFc (u : Fin cfg.nbq)
  | bqQ (u : Fin cfg.nbq)
  | bqGain (u : Fin cfg.nbq)
  | bqA0 (u : Fin cfg.nbq)
  | bqA1 (u : Fin cfg.nbq)
  | bqA2 (u : Fin cfg.nbq)
  | bqB1 (u : Fin cfg.nbq)
  | bqB2 (u : Fin cfg.nbq)
  | bqZ1 (u : Fin cfg.nbq)
  | bqZ2 (u : Fin cfg.nbq)
  | envMode (e : Fin cfg.nenv)
  | envSt (e : Fin cfg.nenv)
  | envLevel (e : Fin cfg.nenv)
  | envAstep (e : Fin cfg.nenv)
  | envDstep (e : Fin cfg.nenv)
  | envRstep (e : Fin cfg.nenv)
  | envSus (e : Fin cfg.nenv)
  | envGate (e : Fin cfg.nenv)
  | lmFcs (m : Fin cfg.nlm)
  | lmCoef (m : Fin cfg.nlm)
  | lmHoldcfg (m : Fin cfg.nlm)
  | lmPresel (m : Fin cfg.nlm)
  | lmLevel (m : Fin cfg.nlm)
  | lmPeak (m : Fin cfg.nlm)
  | lmHold (m : Fin cfg.nlm)
  | rvPreset
  | rvTone
  | rvSize
  | rvKlow
  | rvKhigh
  | rvKpass
  | rvKrt
  | rvKap
  | rvKcomb
  | rvKfb
  | rvKdry
  | rvKrev
  | rvKecho
  | rvEtimereq
  | rvEtime
  | rvS (i : Fin 8)
  | rvYl
  | rvYr
  | k (i : Fin Config.NK)
  | p (i : Fin Config.NP)
  | tt (i : Fin 128)
deriving DecidableEq, Repr

variable {cfg : Params}

/-- `A[15:12]`, the block. -/
def addrBlock (a : BitVec 16) : Nat := a.toNat / 4096

/-- `A[11:4]`, the unit index. -/
def addrUnit (a : BitVec 16) : Nat := a.toNat / 16 % 256

/-- `A[3:0]`, the field. -/
def addrField (a : BitVec 16) : Nat := a.toNat % 16

/-- Block 0: the core registers. -/
def coreField (f : Nat) : Option (RegName cfg) :=
  match f with
  | 0 => some .id
  | 1 => some .status
  | 2 => some .errinfo
  | 3 => some .fs
  | 4 => some .fsf
  | 5 => some .ctrlDiv
  | 6 => some .ctrlCnt
  | _ => none

/-- Block 1: delay line `d`. -/
def dlField (d : Fin cfg.ndl) (f : Nat) : Option (RegName cfg) :=
  match f with
  | 0 => some (.dlDp d)
  | 1 => some (.dlLog2 d)
  | _ => none

/-- Block 2: one-pole unit `u`. -/
def opField (u : Fin cfg.nop) (f : Nat) : Option (RegName cfg) :=
  match f with
  | 0 => some (.opFc u)
  | 1 => some (.opA0 u)
  | 2 => some (.opZ1 u)
  | _ => none

/-- Block 3: biquad unit `u`. -/
def bqField (u : Fin cfg.nbq) (f : Nat) : Option (RegName cfg) :=
  match f with
  | 0 => some (.bqType u)
  | 1 => some (.bqFc u)
  | 2 => some (.bqQ u)
  | 3 => some (.bqGain u)
  | 4 => some (.bqA0 u)
  | 5 => some (.bqA1 u)
  | 6 => some (.bqA2 u)
  | 7 => some (.bqB1 u)
  | 8 => some (.bqB2 u)
  | 9 => some (.bqZ1 u)
  | 10 => some (.bqZ2 u)
  | _ => none

/-- Block 4: envelope unit `e`. -/
def envField (e : Fin cfg.nenv) (f : Nat) : Option (RegName cfg) :=
  match f with
  | 0 => some (.envMode e)
  | 1 => some (.envSt e)
  | 2 => some (.envLevel e)
  | 3 => some (.envAstep e)
  | 4 => some (.envDstep e)
  | 5 => some (.envRstep e)
  | 6 => some (.envSus e)
  | 7 => some (.envGate e)
  | _ => none

/-- Block 5: level meter `m`. -/
def lmField (m : Fin cfg.nlm) (f : Nat) : Option (RegName cfg) :=
  match f with
  | 0 => some (.lmFcs m)
  | 1 => some (.lmCoef m)
  | 2 => some (.lmHoldcfg m)
  | 3 => some (.lmPresel m)
  | 4 => some (.lmLevel m)
  | 5 => some (.lmPeak m)
  | 6 => some (.lmHold m)
  | _ => none

/-- Block 6, unit 0: the reverberator's control registers. -/
def rvField (f : Nat) : Option (RegName cfg) :=
  match f with
  | 0 => some .rvPreset
  | 1 => some .rvTone
  | 2 => some .rvSize
  | 3 => some .rvKlow
  | 4 => some .rvKhigh
  | 5 => some .rvKpass
  | 6 => some .rvKrt
  | 7 => some .rvKap
  | 8 => some .rvKcomb
  | 9 => some .rvKfb
  | 10 => some .rvKdry
  | 11 => some .rvKrev
  | 12 => some .rvKecho
  | 13 => some .rvEtimereq
  | 14 => some .rvEtime
  | _ => none

/-- Block 6, unit 1: the boundaries and the cross-feed registers. -/
def rvBoundaryField (f : Nat) : Option (RegName cfg) :=
  if h : f < 8 then some (.rvS ⟨f, h⟩)
  else if f = 8 then some .rvYl
  else if f = 9 then some .rvYr
  else none

/-- The register mapped at an address; none where the block, the unit or the field is not in the table (R71, R72, R89). -/
def regAt (cfg : Params) (a : BitVec 16) : Option (RegName cfg) :=
  let u := addrUnit a
  let f := addrField a
  match addrBlock a with
  | 0 => if u = 0 then coreField f else none
  | 1 => if h : u < cfg.ndl then dlField ⟨u, h⟩ f else none
  | 2 => if h : u < cfg.nop then opField ⟨u, h⟩ f else none
  | 3 => if h : u < cfg.nbq then bqField ⟨u, h⟩ f else none
  | 4 => if h : u < cfg.nenv then envField ⟨u, h⟩ f else none
  | 5 => if h : u < cfg.nlm then lmField ⟨u, h⟩ f else none
  | 6 => if u = 0 then rvField f else if u = 1 then rvBoundaryField f else none
  | 7 => if h : u = 0 ∧ f < Config.NK then some (.k ⟨f, h.2⟩) else none
  | 8 => if h : 16 * u + f < Config.NP then some (.p ⟨16 * u + f, h⟩) else none
  | 9 => if h : 16 * u + f < 128 then some (.tt ⟨16 * u + f, h⟩) else none
  | _ => none

/-- The registers marked RW in R72, which are the ones R127 lists. -/
def RegName.writable : RegName cfg → Bool
  | .dlDp _ => true
  | .opA0 _ => true
  | .opZ1 _ => true
  | .bqA0 _ => true
  | .bqA1 _ => true
  | .bqA2 _ => true
  | .bqB1 _ => true
  | .bqB2 _ => true
  | .bqZ1 _ => true
  | .bqZ2 _ => true
  | .envSt _ => true
  | .envLevel _ => true
  | .envAstep _ => true
  | .envDstep _ => true
  | .envRstep _ => true
  | .envSus _ => true
  | .envGate _ => true
  | .lmCoef _ => true
  | .lmLevel _ => true
  | .lmPeak _ => true
  | .lmHold _ => true
  | .rvYl => true
  | .rvYr => true
  | _ => false

end Sys2Proof.Machine
end

