-- ==== Sys2Proof/WellFormed.lean ====
section
/-! DEFINITION. The well-formed commands: the range checks (3) to (5) of spec/30_encoding.md R107 that depend on the
command word and the configuration alone. (The one check on a register's value, a WRREG of more than 4 to an
envelope ST register, is made by WRREG's meaning.) -/

namespace Sys2Proof

/-- Why a command word is not a legal command; the order of the checks is not observable (R107, R272). -/
inductive DecodeError
  /-- Check (1): the opcode is not in the table of R105. -/
  | reservedOpcode
  /-- Check (2): a bit of a field the command does not use is set. -/
  | unusedField
  /-- Check (3): the unit index is not below the bank's count. -/
  | unitOutOfRange
  /-- Check (4): funct is outside the range given. -/
  | functOutOfRange
  /-- Check (5): the register address is not mapped. -/
  | unmappedAddress
  /-- Check (5): WRREG to a read-only register. -/
  | readOnlyAddress
deriving DecidableEq, Repr

/-- Check (3) for a bank of `n` units. -/
def unitError (n : Nat) (u : UnitField) : Option DecodeError :=
  if u.toNat < n then none else some .unitOutOfRange

/-- The check a command fails at a configuration, if any. -/
def Instr.rangeErrorAt (cfg : Params) : Instr → Option DecodeError
  | .nop => none
  | .reset => none
  | .setfs _ => none
  | .cstep _ => none
  | .ldi _ _ => none
  | .mov _ _ => none
  | .rdreg _ a => if (Machine.regAt cfg a).isSome then none else some .unmappedAddress
  | .wrreg _ a =>
    match Machine.regAt cfg a with
    | none => some .unmappedAddress
    | some r => if r.writable then none else some .readOnlyAddress
  | .setk _ _ => none
  | .dlRot d => unitError cfg.ndl d
  | .dlWr d _ _ => unitError cfg.ndl d
  | .dlRd _ d _ => unitError cfg.ndl d
  | .dlRdi _ d _ => unitError cfg.ndl d
  | .dlAp _ d _ _ _ => unitError cfg.ndl d
  | .dlClr d => unitError cfg.ndl d
  | .opSet u _ => unitError cfg.nop u
  | .opLp _ _ u => unitError cfg.nop u
  | .opHp _ _ u => unitError cfg.nop u
  | .opRst u => unitError cfg.nop u
  | .bqCfg u _ _ _ _ => unitError cfg.nbq u
  | .bqProc _ _ u => unitError cfg.nbq u
  | .bqRst u => unitError cfg.nbq u
  | .envMode e _ => unitError cfg.nenv e
  | .envTime e _ _ => unitError cfg.nenv e
  | .envSus e _ => unitError cfg.nenv e
  | .envTick _ e _ => unitError cfg.nenv e
  | .envRdf _ e => unitError cfg.nenv e
  | .envRst e => unitError cfg.nenv e
  | .tlookup _ _ => none
  | .lmCfg m _ presel _ =>
    if m.toNat < cfg.nlm then (if presel.toNat ≤ cfg.nbq then none else some .functOutOfRange)
    else some .unitOutOfRange
  | .lmProc m _ => unitError cfg.nlm m
  | .lmRd _ m _ => unitError cfg.nlm m
  | .lmRst m => unitError cfg.nlm m
  | .rvChar p => if p.toNat < cfg.npreset then none else some .functOutOfRange
  | .rvParam _ _ => none
  | .rvEtime _ => none
  | .rvProc _ _ _ => none
  | .rvRst => none

/-- A command every field of which is in its legal range at a configuration (R101, R105). -/
def Instr.wellFormedAt (cfg : Params) (i : Instr) : Bool := (i.rangeErrorAt cfg).isNone

/-- The check a command fails at the defaults, if any. -/
abbrev Instr.rangeError (i : Instr) : Option DecodeError := i.rangeErrorAt Config.default

/-- A command every field of which is in its legal range at the defaults. -/
abbrev Instr.wellFormed (i : Instr) : Bool := i.wellFormedAt Config.default

end Sys2Proof
end

