-- ==== Sys2Proof/Decode.lean ====
section
/-! DEFINITION. The decoder and the encoder of the one 64-bit command format (spec/30_encoding.md R100 to R108).
Decoding makes the checks of R107 in their order and rejects by name; encoding builds the word from the same fields. -/

namespace Sys2Proof

/-! ## The fields of R100 -/

/-- The seven fields of a command word. -/
structure Fields where
  /-- C[63:56]. -/
  opcode : BitVec 8
  /-- C[55:52]. -/
  rd : BitVec 4
  /-- C[51:48]. -/
  rs1 : BitVec 4
  /-- C[47:44]. -/
  rs2 : BitVec 4
  /-- C[43:40]. -/
  funct : BitVec 4
  /-- C[39:32]. -/
  unit : BitVec 8
  /-- C[31:0]. -/
  imm : BitVec 32
deriving DecidableEq, Repr

/-- The fields of a word. -/
def fieldsOf (c : CommandWord) : Fields :=
  { opcode := c.extractLsb' 56 8
    rd := c.extractLsb' 52 4
    rs1 := c.extractLsb' 48 4
    rs2 := c.extractLsb' 44 4
    funct := c.extractLsb' 40 4
    unit := c.extractLsb' 32 8
    imm := c.extractLsb' 0 32 }

/-- The word of the fields. -/
def wordOf (f : Fields) : CommandWord :=
  f.opcode ++ f.rd ++ f.rs1 ++ f.rs2 ++ f.funct ++ f.unit ++ f.imm

/-- C[63:32], what ERRINFO records (spec/60_exceptions.md R271). -/
def upperHalf (c : CommandWord) : Word := c.extractLsb' 32 32

/-! ## Checks (1) and (2): the opcode table of R105 -/

/-- Which fields a command uses; `imm` has a one in every immediate bit it uses. -/
structure Uses where
  rd : Bool := false
  rs1 : Bool := false
  rs2 : Bool := false
  funct : Bool := false
  unit : Bool := false
  imm : BitVec 32 := 0#32
deriving DecidableEq, Repr

/-- All 32 bits of the immediate. -/
def allImm : BitVec 32 := 0xFFFFFFFF#32

/-- The rows of R105: the fields used under each opcode in the table, none for a reserved opcode (R108). -/
def usesOf (opcode : BitVec 8) : Option Uses :=
  match opcode.toNat with
  | 0x00 => some {}
  | 0x01 => some {}
  | 0x02 => some { imm := allImm }
  | 0x03 => some { rd := true }
  | 0x04 => some { rd := true, imm := allImm }
  | 0x05 => some { rd := true, rs1 := true }
  | 0x06 => some { rd := true, imm := 0x0000FFFF#32 }
  | 0x07 => some { rs1 := true, imm := 0x0000FFFF#32 }
  | 0x08 => some { rs1 := true, funct := true }
  | 0x10 => some { unit := true }
  | 0x11 => some { rs1 := true, unit := true, imm := allImm }
  | 0x12 => some { rd := true, unit := true, imm := allImm }
  | 0x13 => some { rd := true, unit := true, imm := allImm }
  | 0x14 => some { rd := true, funct := true, unit := true, imm := allImm }
  | 0x15 => some { unit := true }
  | 0x20 => some { rs1 := true, unit := true }
  | 0x21 => some { rd := true, rs1 := true, unit := true }
  | 0x22 => some { rd := true, rs1 := true, unit := true }
  | 0x23 => some { unit := true }
  | 0x24 => some { rd := true, rs1 := true, rs2 := true, funct := true, unit := true }
  | 0x25 => some { rd := true, rs1 := true, unit := true }
  | 0x26 => some { unit := true }
  | 0x30 => some { funct := true, unit := true }
  | 0x31 => some { rs1 := true, funct := true, unit := true }
  | 0x32 => some { rs1 := true, unit := true }
  | 0x33 => some { rd := true, unit := true, imm := 0x00000001#32 }
  | 0x34 => some { rd := true, unit := true }
  | 0x35 => some { unit := true }
  | 0x36 => some { rd := true, rs1 := true }
  | 0x40 => some { rs1 := true, funct := true, unit := true, imm := allImm }
  | 0x41 => some { rs1 := true, unit := true }
  | 0x42 => some { rd := true, funct := true, unit := true }
  | 0x43 => some { unit := true }
  | 0x50 => some { funct := true }
  | 0x51 => some { rs1 := true, funct := true }
  | 0x52 => some { imm := allImm }
  | 0x53 => some { rd := true, rs1 := true, rs2 := true }
  | 0x54 => some {}
  | _ => none

/-- Check (2): every bit outside the used fields is zero (R101). -/
def unusedZero (u : Uses) (f : Fields) : Bool :=
  (u.rd || f.rd == 0#4) && (u.rs1 || f.rs1 == 0#4) && (u.rs2 || f.rs2 == 0#4) && (u.funct || f.funct == 0#4)
    && (u.unit || f.unit == 0#8) && (f.imm &&& ~~~u.imm == 0#32)

/-! ## The operands -/

/-- The register a 4-bit field names. -/
def regOf (r : BitVec 4) : Reg := r.toFin

/-- The 4-bit field of a register. -/
def regField (r : Reg) : BitVec 4 := BitVec.ofFin r

/-- The command of an opcode and its fields; none for a reserved opcode or a funct selector outside the range given
(check (4)). -/
def operandsOf (f : Fields) : Option Instr :=
  match f.opcode.toNat with
  | 0x00 => some .nop
  | 0x01 => some .reset
  | 0x02 => some (.setfs f.imm)
  | 0x03 => some (.cstep (regOf f.rd))
  | 0x04 => some (.ldi (regOf f.rd) f.imm)
  | 0x05 => some (.mov (regOf f.rd) (regOf f.rs1))
  | 0x06 => some (.rdreg (regOf f.rd) (f.imm.extractLsb' 0 16))
  | 0x07 => some (.wrreg (regOf f.rs1) (f.imm.extractLsb' 0 16))
  | 0x08 => some (.setk (regOf f.funct) (regOf f.rs1))
  | 0x10 => some (.dlRot f.unit)
  | 0x11 => some (.dlWr f.unit (regOf f.rs1) f.imm)
  | 0x12 => some (.dlRd (regOf f.rd) f.unit f.imm)
  | 0x13 => some (.dlRdi (regOf f.rd) f.unit f.imm)
  | 0x14 => some (.dlAp (regOf f.rd) f.unit (regOf f.funct) (f.imm.extractLsb' 16 16) (f.imm.extractLsb' 0 16))
  | 0x15 => some (.dlClr f.unit)
  | 0x20 => some (.opSet f.unit (regOf f.rs1))
  | 0x21 => some (.opLp (regOf f.rd) (regOf f.rs1) f.unit)
  | 0x22 => some (.opHp (regOf f.rd) (regOf f.rs1) f.unit)
  | 0x23 => some (.opRst f.unit)
  | 0x24 => (Machine.biquadTypeOf f.funct).map fun t => .bqCfg f.unit t (regOf f.rs1) (regOf f.rs2) (regOf f.rd)
  | 0x25 => some (.bqProc (regOf f.rd) (regOf f.rs1) f.unit)
  | 0x26 => some (.bqRst f.unit)
  | 0x30 => (Machine.envModeOf f.funct).map fun m => .envMode f.unit m
  | 0x31 => (Machine.timeSelOf f.funct).map fun t => .envTime f.unit t (regOf f.rs1)
  | 0x32 => some (.envSus f.unit (regOf f.rs1))
  | 0x33 => some (.envTick (regOf f.rd) f.unit (f.imm.getLsbD 0))
  | 0x34 => some (.envRdf (regOf f.rd) f.unit)
  | 0x35 => some (.envRst f.unit)
  | 0x36 => some (.tlookup (regOf f.rd) (regOf f.rs1))
  | 0x40 => some (.lmCfg f.unit (regOf f.rs1) f.funct f.imm)
  | 0x41 => some (.lmProc f.unit (regOf f.rs1))
  | 0x42 => (Machine.readSelOf f.funct).map fun r => .lmRd (regOf f.rd) f.unit r
  | 0x43 => some (.lmRst f.unit)
  | 0x50 => some (.rvChar f.funct)
  | 0x51 => (Machine.paramSelOf f.funct).map fun q => .rvParam q (regOf f.rs1)
  | 0x52 => some (.rvEtime f.imm)
  | 0x53 => some (.rvProc (regOf f.rd) (regOf f.rs2) (regOf f.rs1))
  | 0x54 => some .rvRst
  | _ => none

/-! ## The decoder -/

/-- The command of a word at a configuration, or the first of the checks of R107 that it fails. -/
def decodeAt (cfg : Params) (c : CommandWord) : Except DecodeError Instr :=
  match usesOf (fieldsOf c).opcode with
  | none => .error .reservedOpcode
  | some u =>
    if unusedZero u (fieldsOf c) then
      match operandsOf (fieldsOf c) with
      | none => .error .functOutOfRange
      | some i =>
        match i.rangeErrorAt cfg with
        | none => .ok i
        | some e => .error e
    else .error .unusedField

/-- The command of a word at the defaults, or the first of the checks of R107 that it fails. -/
abbrev decode (c : CommandWord) : Except DecodeError Instr := decodeAt Config.default c

/-- The 64-bit word that eight bytes carry, least significant byte first (spec/20_memory.md R83); a missing byte reads
as zero and further bytes are not looked at. -/
def wordOfBytes (bs : List Byte) : CommandWord :=
  bs.getD 7 0#8 ++ bs.getD 6 0#8 ++ bs.getD 5 0#8 ++ bs.getD 4 0#8 ++ bs.getD 3 0#8 ++ bs.getD 2 0#8 ++ bs.getD 1 0#8
    ++ bs.getD 0 0#8

/-- The eight bytes of a command word, least significant first (R83). -/
def bytesOfWord (c : CommandWord) : List Byte :=
  [c.extractLsb' 0 8, c.extractLsb' 8 8, c.extractLsb' 16 8, c.extractLsb' 24 8, c.extractLsb' 32 8,
    c.extractLsb' 40 8, c.extractLsb' 48 8, c.extractLsb' 56 8]

/-- Decoding from the bytes of the byte-oriented channel. -/
def decodeBytes (bs : List Byte) : Except DecodeError Instr := decode (wordOfBytes bs)

/-- The command word of table bits `w`, bits from `nbits` on zero. -/
def tableWord (nbits w : Nat) : CommandWord := BitVec.ofNat 64 (w % 2 ^ nbits)

/-- The command the decoder reads from an opcode-table word, laid out as the channel carries it. -/
def decodeTableWord (nbits w : Nat) : Option Instr :=
  match decodeBytes (bytesOfWord (tableWord nbits w)) with
  | .ok i => some i
  | .error _ => none

/-! ## The encoder -/

/-- The fields of a word with only the opcode set. -/
def blankFields (opcode : BitVec 8) : Fields :=
  { opcode := opcode, rd := 0#4, rs1 := 0#4, rs2 := 0#4, funct := 0#4, unit := 0#8, imm := 0#32 }

/-- The 32-bit immediate that carries a register address (R102). -/
def addrImm (a : BitVec 16) : BitVec 32 := 0#16 ++ a

/-- The 32-bit immediate of a gate level (R102). -/
def gateImm (g : Bool) : BitVec 32 := if g then 1#32 else 0#32

/-- The fields of each command, from the table of R105 and the operand order of R112. -/
def encodeFields : Instr → Fields
  | .nop => blankFields 0x00#8
  | .reset => blankFields 0x01#8
  | .setfs hz => { blankFields 0x02#8 with imm := hz }
  | .cstep rd => { blankFields 0x03#8 with rd := regField rd }
  | .ldi rd imm => { blankFields 0x04#8 with rd := regField rd, imm := imm }
  | .mov rd rs1 => { blankFields 0x05#8 with rd := regField rd, rs1 := regField rs1 }
  | .rdreg rd a => { blankFields 0x06#8 with rd := regField rd, imm := addrImm a }
  | .wrreg rs1 a => { blankFields 0x07#8 with rs1 := regField rs1, imm := addrImm a }
  | .setk k rs1 => { blankFields 0x08#8 with funct := regField k, rs1 := regField rs1 }
  | .dlRot d => { blankFields 0x10#8 with unit := d }
  | .dlWr d rs1 off => { blankFields 0x11#8 with unit := d, rs1 := regField rs1, imm := off }
  | .dlRd rd d off => { blankFields 0x12#8 with rd := regField rd, unit := d, imm := off }
  | .dlRdi rd d q => { blankFields 0x13#8 with rd := regField rd, unit := d, imm := q }
  | .dlAp rd d k inOff outOff =>
    { blankFields 0x14#8 with rd := regField rd, unit := d, funct := regField k, imm := inOff ++ outOff }
  | .dlClr d => { blankFields 0x15#8 with unit := d }
  | .opSet u rs1 => { blankFields 0x20#8 with unit := u, rs1 := regField rs1 }
  | .opLp rd rs1 u => { blankFields 0x21#8 with rd := regField rd, rs1 := regField rs1, unit := u }
  | .opHp rd rs1 u => { blankFields 0x22#8 with rd := regField rd, rs1 := regField rs1, unit := u }
  | .opRst u => { blankFields 0x23#8 with unit := u }
  | .bqCfg u ty rfc rq rgain =>
    { blankFields 0x24#8 with
      unit := u, funct := Machine.biquadTypeCode ty, rs1 := regField rfc, rs2 := regField rq, rd := regField rgain }
  | .bqProc rd rs1 u => { blankFields 0x25#8 with rd := regField rd, rs1 := regField rs1, unit := u }
  | .bqRst u => { blankFields 0x26#8 with unit := u }
  | .envMode e m => { blankFields 0x30#8 with unit := e, funct := Machine.envModeCode m }
  | .envTime e sel rs1 =>
    { blankFields 0x31#8 with unit := e, funct := Machine.timeSelCode sel, rs1 := regField rs1 }
  | .envSus e rs1 => { blankFields 0x32#8 with unit := e, rs1 := regField rs1 }
  | .envTick rd e g => { blankFields 0x33#8 with rd := regField rd, unit := e, imm := gateImm g }
  | .envRdf rd e => { blankFields 0x34#8 with rd := regField rd, unit := e }
  | .envRst e => { blankFields 0x35#8 with unit := e }
  | .tlookup rd rs1 => { blankFields 0x36#8 with rd := regField rd, rs1 := regField rs1 }
  | .lmCfg m rs1 presel hold => { blankFields 0x40#8 with unit := m, rs1 := regField rs1, funct := presel, imm := hold }
  | .lmProc m rs1 => { blankFields 0x41#8 with unit := m, rs1 := regField rs1 }
  | .lmRd rd m sel => { blankFields 0x42#8 with rd := regField rd, unit := m, funct := Machine.readSelCode sel }
  | .lmRst m => { blankFields 0x43#8 with unit := m }
  | .rvChar p => { blankFields 0x50#8 with funct := p }
  | .rvParam sel rs1 => { blankFields 0x51#8 with funct := Machine.paramSelCode sel, rs1 := regField rs1 }
  | .rvEtime q => { blankFields 0x52#8 with imm := q }
  | .rvProc rl rr rs1 => { blankFields 0x53#8 with rd := regField rl, rs2 := regField rr, rs1 := regField rs1 }
  | .rvRst => blankFields 0x54#8

/-- The word of a command. -/
def encode (i : Instr) : CommandWord := wordOf (encodeFields i)

end Sys2Proof
end

