-- ==== Sys2Proof/Machine/Num.lean ====
section
/-! DEFINITION. The transcendental functions NUM of spec/00_scope.md R30. Each is an arbitrary function of Config brought
into what the named properties allow: a value outside its pinned range is moved to the near bound, and inside a range over
which a property says "non-decreasing" the values are bracketed by those at the midpoints of a binary search for the
argument. A raw function that has the properties passes through bit for bit, so every NUM that the spec admits is one the
model admits, and every one the model admits has the properties (notes/assumptions/3.md). -/

namespace Sys2Proof.Machine

/-- 2^-16, where NUM-tan-pos begins. -/
def fTwoPowM16 : F32 := 0x37800000#32
/-- 2^-17, the bound of NUM-tan-pos. -/
def fTwoPowM17 : F32 := 0x37000000#32
/-- 2^-30, from where NUM-log10-mono makes the logarithm finite. -/
def fTwoPowM30 : F32 := 0x30800000#32
/-- 100.0, the bound of NUM-pow10-range. -/
def f100 : F32 := 0x42C80000#32
def fMinusInf : F32 := 0xFF800000#32
def fMinusMaxFinite : F32 := 0xFF7FFFFF#32

/-- NUM-nan: what a NaN argument gives is a NaN; a pattern that is one already is kept. -/
def asNaN (v : F32) : F32 := if isNaN v then v else quietNaN (v.setWidth 23)

/-- The largest argument of the tangent in the properties, `fmul(PI, FCR_MAX)`. -/
def tanBound (cfg : Params) : F32 := fmul fPi cfg.fcrMax

/-! ## Non-decreasing functions -/

/-- The value at place `p` of a function that is non-decreasing over the places `base` to `top`, all below
`base + 2^fuel`, with values in [lo, hi]: `raw` at each midpoint, held between the bounds so far, bounds one half. -/
def monotoneAt (raw : Nat → F32) (top p : Nat) : Nat → Nat → F32 → F32 → F32
  | 0, base, lo, hi => clampf (raw base) lo hi
  | fuel + 1, base, lo, hi =>
    let mid := base + 2 ^ fuel
    if top < mid then monotoneAt raw top p fuel base lo hi
    else if p < mid then monotoneAt raw top p fuel base lo (clampf (raw mid) lo hi)
    else monotoneAt raw top p fuel mid (clampf (raw mid) lo hi) hi

/-- A raw function at positive arguments, by magnitude bits. -/
def atMag (raw : F32 → F32) (m : Nat) : F32 := raw (pack false m)

/-- A raw function at negative arguments, by the place that grows with the argument: minus infinity stands at 0. -/
def atNegPlace (raw : F32 → F32) (p : Nat) : F32 := raw (pack true (infMag - p))

/-- `raw` at a non-negative `x` from `first` up to `last`, non-decreasing, with values in [lo, hi]. -/
@[irreducible] def risingOn (raw : F32 → F32) (first last lo hi x : F32) : F32 :=
  monotoneAt (atMag raw) (fmag last) (fmag x) 31 (fmag first) lo hi

/-- `raw` at a negative `x`, non-decreasing, with values in [lo, hi]. -/
@[irreducible] def risingBelowZero (raw : F32 → F32) (lo hi x : F32) : F32 :=
  monotoneAt (atNegPlace raw) (infMag - 1) (infMag - fmag x) 31 0 lo hi

/-! ## The four functions -/

/-- NUM.exp: NUM-exp-zero, NUM-exp-range, NUM-exp-mono, NUM-nan. -/
def numExp (x : F32) : F32 :=
  if isNaN x then asNaN (Config.rawExp x)
  else if isZero x then fOne
  else if fsign x then risingBelowZero Config.rawExp fZero fOne x
  else risingOn Config.rawExp fZero fInf fOne fInf x

/-- The tangent of 2^-16, where the two halves of its range meet if the range reaches that far. -/
def tanKnee : F32 := clampf (Config.rawTan fTwoPowM16) fTwoPowM17 fMaxFinite

/-- NUM.tan: NUM-tan-zero, NUM-tan-range, NUM-tan-pos, NUM-nan. Outside the range of the properties, which ends at
`tanBound`, nothing is known; where that is below 2^-16, NUM-tan-pos speaks of no argument. -/
def numTan (cfg : Params) (x : F32) : F32 :=
  if isNaN x then asNaN (Config.rawTan x)
  else if x = fZero then fZero
  else if isZero x then clampf (Config.rawTan x) fZero fZero
  else if fge x fZero && fle x (tanBound cfg) then
    if fge x fTwoPowM16 then risingOn Config.rawTan fTwoPowM16 (tanBound cfg) tanKnee fMaxFinite x
    else if fge (tanBound cfg) fTwoPowM16 then risingOn Config.rawTan fZero fTwoPowM16 fZero tanKnee x
    else risingOn Config.rawTan fZero (tanBound cfg) fZero fMaxFinite x
  else Config.rawTan x

/-- The logarithm of 2^-30, from where on it is finite. -/
def logKnee : F32 := clampf (Config.rawLog10 fTwoPowM30) fMinusMaxFinite fZero

/-- NUM.log10: NUM-log10-one, NUM-log10-mono, NUM-nan. (Its finiteness is required of finite arguments: at an infinity the
recommended function gives an infinity.) Nothing is known at zero and below. -/
def numLog10 (x : F32) : F32 :=
  if isNaN x then asNaN (Config.rawLog10 x)
  else if x = fOne then fZero
  else if isInf x && !fsign x then
    clampf (Config.rawLog10 x) (risingOn Config.rawLog10 fOne fMaxFinite fZero fMaxFinite fMaxFinite) fInf
  else if fgt x fOne then risingOn Config.rawLog10 fOne fMaxFinite fZero fMaxFinite x
  else if fge x fTwoPowM30 then risingOn Config.rawLog10 fTwoPowM30 fOne logKnee fZero x
  else if fgt x fZero then risingOn Config.rawLog10 fZero fTwoPowM30 fMinusInf logKnee x
  else Config.rawLog10 x

/-- NUM.pow10: NUM-pow10-zero, NUM-pow10-range, NUM-nan. Outside 0..2.0 nothing is known. -/
def numPow10 (x : F32) : F32 :=
  if isNaN x then asNaN (Config.rawPow10 x)
  else if isZero x then fOne
  else if fge x fZero && fle x fTwo then risingOn Config.rawPow10 fZero fTwo fOne f100 x
  else Config.rawPow10 x

end Sys2Proof.Machine
end

