-- ==== Sys2Proof/Machine/Derive.lean ====
section
/-! DEFINITION. The derivation rules: every derived register as a function of parameter registers and the sample rate
(spec/40_system.md R123, spec/42_filters.md R162, R166, R172 to R178, spec/43_envelope.md R196, spec/44_levelmeter.md R221,
R225, spec/45_reverberator.md R244 to R246). No function here reads a history register (R181). Each takes the
configuration whose bounds, table or presets it uses. -/

namespace Sys2Proof.Machine

/-! ## Rates -/

/-- CTRL_DIV (R123). -/
def ctrlDivOf (cfg : Params) (fs : Nat) : Nat := max 1 (fs / cfg.controlRateHz)

/-- The cutoff bound `fmul(FSF, FCR_MAX)` of R162, R166 and R221. -/
def cutoffBound (cfg : Params) (fsf : F32) : F32 := fmul fsf cfg.fcrMax

/-- `NUM.exp(-2π·fc/fs)` with the cutoff clamped to [0, FCR_MAX·fs]: the pole of R162 and R221. -/
def poleOf (cfg : Params) (cutoff fsf : F32) : F32 :=
  numExp (fneg (fdiv (fmul fTwoPi (clampf cutoff fZero (cutoffBound cfg fsf))) fsf))

/-- OP[u].A0 from FC and FSF (R162). -/
def onePoleA0 (cfg : Params) (fc fsf : F32) : F32 := fsub fOne (poleOf cfg fc fsf)

/-- LM[m].COEF from FCS and FSF (R221). -/
def meterCoef (cfg : Params) (fcs fsf : F32) : F32 := poleOf cfg fcs fsf

/-! ## Biquad coefficients -/

/-- The five derived coefficients of a biquad unit (spec/10_state.md R54). -/
structure BiquadCoeffs where
  a0 : F32
  a1 : F32
  a2 : F32
  b1 : F32
  b2 : F32
deriving DecidableEq, Repr

/-- `den(a, b) = (1 + a) + b` (R166). -/
def bqDen (a b : F32) : F32 := fadd (fadd fOne a) b
/-- `num(a, b) = (1 - a) + b` (R166). -/
def bqNum (a b : F32) : F32 := fadd (fsub fOne a) b
/-- `two(a) = 2·a` (R166). -/
def bqTwo (a : F32) : F32 := fmul fTwo a
/-- `vden(a, b) = (V + a) + b` (R178). -/
def bqVden (v a b : F32) : F32 := fadd (fadd v a) b
/-- `vnum(a, b) = (V - a) + b` (R178). -/
def bqVnum (v a b : F32) : F32 := fadd (fsub v a) b

/-- LPF (R172). -/
def lpfCoeffs (kk kq : F32) : BiquadCoeffs :=
  let norm := fdiv fOne (bqDen kq kk)
  let a0 := fmul kk norm
  { a0 := a0, a1 := bqTwo a0, a2 := a0
    b1 := fmul (bqTwo (fsub kk fOne)) norm, b2 := fmul (bqNum kq kk) norm }

/-- BPF (R173). -/
def bpfCoeffs (kk kq : F32) : BiquadCoeffs :=
  let norm := fdiv fOne (bqDen kq kk)
  let a0 := fmul kq norm
  { a0 := a0, a1 := fZero, a2 := fneg a0
    b1 := fmul (bqTwo (fsub kk fOne)) norm, b2 := fmul (bqNum kq kk) norm }

/-- HPF (R174). -/
def hpfCoeffs (kk kq : F32) : BiquadCoeffs :=
  let norm := fdiv fOne (bqDen kq kk)
  { a0 := norm, a1 := fmul fMinusTwo norm, a2 := norm
    b1 := fmul (bqTwo (fsub kk fOne)) norm, b2 := fmul (bqNum kq kk) norm }

/-- NOTCH (R175). -/
def notchCoeffs (kk kq : F32) : BiquadCoeffs :=
  let norm := fdiv fOne (bqDen kq kk)
  let a0 := fmul (fadd fOne kk) norm
  let a1 := fmul (bqTwo (fsub kk fOne)) norm
  { a0 := a0, a1 := a1, a2 := a0, b1 := a1, b2 := fmul (bqNum kq kk) norm }

/-- PEAK, with the boost and cut branches of DV (R176). -/
def peakCoeffs (boost : Bool) (kk kq vkq : F32) : BiquadCoeffs :=
  if boost then
    let norm := fdiv fOne (bqDen kq kk)
    let a1 := fmul (bqTwo (fsub kk fOne)) norm
    { a0 := fmul (bqDen vkq kk) norm, a1 := a1, a2 := fmul (bqNum vkq kk) norm
      b1 := a1, b2 := fmul (bqNum kq kk) norm }
  else
    let norm := fdiv fOne (bqDen vkq kk)
    let a1 := fmul (bqTwo (fsub kk fOne)) norm
    { a0 := fmul (bqDen kq kk) norm, a1 := a1, a2 := fmul (bqNum kq kk) norm
      b1 := a1, b2 := fmul (bqNum vkq kk) norm }

/-- LOWSHELF, with the boost and cut branches of DV (R177). -/
def lowshelfCoeffs (boost : Bool) (k kk v : F32) : BiquadCoeffs :=
  let s2k := fmul fSqrt2 k
  let s2vk := fmul (fsqrt (bqTwo v)) k
  let vkk := fmul v kk
  if boost then
    let norm := fdiv fOne (bqDen s2k kk)
    { a0 := fmul (bqDen s2vk vkk) norm, a1 := fmul (bqTwo (fsub vkk fOne)) norm, a2 := fmul (bqNum s2vk vkk) norm
      b1 := fmul (bqTwo (fsub kk fOne)) norm, b2 := fmul (bqNum s2k kk) norm }
  else
    let norm := fdiv fOne (bqDen s2vk vkk)
    { a0 := fmul (bqDen s2k kk) norm, a1 := fmul (bqTwo (fsub kk fOne)) norm, a2 := fmul (bqNum s2k kk) norm
      b1 := fmul (bqTwo (fsub vkk fOne)) norm, b2 := fmul (bqNum s2vk vkk) norm }

/-- HIGHSHELF, with the boost and cut branches of DV (R178). -/
def highshelfCoeffs (boost : Bool) (k kk v : F32) : BiquadCoeffs :=
  let s2k := fmul fSqrt2 k
  let s2vk := fmul (fsqrt (bqTwo v)) k
  if boost then
    let norm := fdiv fOne (bqDen s2k kk)
    { a0 := fmul (bqVden v s2vk kk) norm, a1 := fmul (bqTwo (fsub kk v)) norm, a2 := fmul (bqVnum v s2vk kk) norm
      b1 := fmul (bqTwo (fsub kk fOne)) norm, b2 := fmul (bqNum s2k kk) norm }
  else
    let norm := fdiv fOne (bqVden v s2vk kk)
    { a0 := fmul (bqDen s2k kk) norm, a1 := fmul (bqTwo (fsub kk fOne)) norm, a2 := fmul (bqNum s2k kk) norm
      b1 := fmul (bqTwo (fsub kk v)) norm, b2 := fmul (bqVnum v s2vk kk) norm }

/-- The rule of the type, from the common terms K, Q, V and the boost branch of R166. -/
def coeffsOfTerms (ty : BiquadType) (boost : Bool) (k q v : F32) : BiquadCoeffs :=
  let kk := fmul k k
  let kq := fdiv k q
  match ty with
  | .lpf => lpfCoeffs kk kq
  | .bpf => bpfCoeffs kk kq
  | .hpf => hpfCoeffs kk kq
  | .notch => notchCoeffs kk kq
  | .peak => peakCoeffs boost kk kq (fmul v kq)
  | .lowshelf => lowshelfCoeffs boost k kk v
  | .highshelf => highshelfCoeffs boost k kk v

/-- The biquad derivation: the clamps, K, V and the branch, then the rule of the type (R166). -/
def biquadCoeffs (cfg : Params) (ty : BiquadType) (fc q gain fsf : F32) : BiquadCoeffs :=
  let g := clampf gain (fneg cfg.gainMax) cfg.gainMax
  coeffsOfTerms ty (fge g fZero)
    (numTan cfg (fdiv (fmul fPi (clampf fc cfg.fcMin (cutoffBound cfg fsf))) fsf))
    (clampf q cfg.qMin cfg.qMax)
    (numPow10 (fdiv (fabs g) fTwenty))

/-! ## The time table -/

/-- `rhaz(fmul(clamp01(knob), 127.0))`, an index 0..127 (R196). -/
def knobIndex (knob : F32) : Nat := (rhaz (fmul (clamp01 knob) f127)).toNat

/-- TT[i] (spec/10_state.md R50). -/
def timeStep (cfg : Params) (i : Nat) : BitVec 16 := BitVec.ofNat 16 (cfg.timeTable.getD i 0)

/-- The step a knob selects (R194, R196). -/
def stepOfKnob (cfg : Params) (knob : F32) : BitVec 16 := timeStep cfg (knobIndex knob)

/-- `rhaz(fmul(clamp01(knob), 65535.0))`, a level 0..65535 (R195). -/
def sustainOfKnob (knob : F32) : BitVec 16 := BitVec.ofNat 16 (rhaz (fmul (clamp01 knob) f65535)).toNat

/-! ## The level meter's read-out -/

/-- `dB(v)` (R225). -/
def dB (cfg : Params) (v : F32) : F32 := clampf (fmul fTwenty (numLog10 (fadd v cfg.lmEps))) cfg.dbFloor fZero

/-! ## The reverberator's layout and echo time -/

/-- D[r]: the delay in samples of region r at rate `fs` (R244). -/
def regionDelay (cfg : Params) (p : Fin cfg.npreset) (fs r : Nat) : Nat := cfg.delayOf (cfg.preset p) fs r

/-- S[r]: the first offset of region r; S[7] is one past the last region (R244). -/
def boundary (cfg : Params) (p : Fin cfg.npreset) (fs r : Nat) : Nat := cfg.boundaryOf (cfg.preset p) fs r

/-- The eight boundary registers (R244). -/
def layoutOf (cfg : Params) (p : Fin cfg.npreset) (fs : Nat) : Vector Word 8 :=
  Vector.ofFn fun r : Fin 8 => BitVec.ofNat 32 (boundary cfg p fs r.val)

/-- ETIME from ETIMEREQ: clamped to [3.0, D[6] - 1] samples as UQ20.12 patterns (R245). -/
def echoTimeOf (cfg : Params) (req : Word) (fs : Nat) : Word :=
  BitVec.ofNat 32 (clampu req.toNat (3 * 4096) ((cfg.echoDelay fs - 1) * 4096))

/-! ## Tone and size laws -/

/-- KLOW from the clamped tone (R246). -/
def toneKlow (t : F32) : F32 := if fle t fHalf then fsub fOne (fmul fTwo t) else fZero
/-- KHIGH from the clamped tone (R246). -/
def toneKhigh (t : F32) : F32 := if fle t fHalf then fZero else fsub (fmul fTwo t) fOne
/-- KPASS from the clamped tone (R246). -/
def toneKpass (t : F32) : F32 := if fle t fHalf then fmul fTwo t else fsub fTwo (fmul fTwo t)
/-- KRT from the clamped size (R246). In exact arithmetic it is at most KRT_MIN + KRT_SPAN, as R254 has it, where KRT_SPAN
is not negative (notes/assumptions/14.md). -/
def sizeKrt (cfg : Params) (s : F32) : F32 := fadd cfg.krtMin (fmul s cfg.krtSpan)

end Sys2Proof.Machine
end

