-- ==== Sys2Proof/Machine/State.lean ====
section
/-! DEFINITION. The state of the DVDSP core as plain data: every register of spec/10_state.md R40, the mailbox's visible
values and pending stores (spec/20_memory.md R93), the delay memory, the host's command index pc (R42) and the inputs the
two host agents have yet to present (spec/00_scope.md R34, R36). -/

namespace Sys2Proof.Machine

/-! ## Why a step can stop -/

/-- The machine has no fault: the one exception sets a flag and the core goes on (spec/60_exceptions.md R270, R273,
R275), offsets wrap and parameters are clamped (R277). So there is no constructor, and nobody raises one. -/
inductive Fault
deriving DecidableEq, Repr

/-- Why a step is refused. -/
inductive Refusal
  /-- Raised by exec for a command that has no meaning yet; none is left. Safe: the model stops. -/
  | notModelled (mnemonic : String)
deriving DecidableEq, Repr

/-! ## Delay memory -/

/-- One delay line's cells by physical index, in one canonical form: indices strictly rising, and no cell that holds what
an unlisted cell reads as. The cell of 32 bits is the smallest addressable unit (spec/20_memory.md R81;
notes/assumptions/5.md). -/
abbrev Memory := List (Nat × Word)

/-- What a cell that the list does not name reads as: the reset contents `0x00000000` (spec/10_state.md R51, R74). -/
def Memory.blank : Word := 0x00000000#32

/-- Every listed index is above `lo - 1`, below `cap`, and rising, and no listed cell is blank. -/
def Memory.wfFrom (cap : Nat) : Nat → Memory → Bool
  | _, [] => true
  | lo, (a, v) :: rest => decide (lo ≤ a) && decide (a < cap) && (v != Memory.blank) && Memory.wfFrom cap (a + 1) rest

/-- The canonical form of a line of capacity `cap`. -/
def Memory.wf (cap : Nat) (m : Memory) : Bool := Memory.wfFrom cap 0 m

/-! ## Unit state -/

/-- STATUS (spec/10_state.md R43): its two flags; bits 31:2 read as 0. -/
structure Status where
  /-- Bit 0, ILL, sticky. -/
  ill : Bool
  /-- Bit 1, CTICK. -/
  ctick : Bool
deriving DecidableEq, Repr

/-- A delay line (R51). -/
structure DelayLine where
  /-- The cursor DP. -/
  dp : Word
  /-- The buffer. -/
  buf : Memory
deriving DecidableEq, Repr

/-- A one-pole unit (R52). -/
structure OnePole where
  /-- FC, the cutoff as requested. -/
  fc : F32
  /-- A0, derived. -/
  a0 : F32
  /-- Z1, history. -/
  z1 : F32
deriving DecidableEq, Repr

/-- A biquad unit (R53, R54). -/
structure Biquad where
  /-- TYPE. -/
  ty : BiquadType
  /-- FC, as requested. -/
  fc : F32
  /-- Q, as requested. -/
  q : F32
  /-- GAIN, as requested. -/
  gain : F32
  /-- A0, A1, A2, B1, B2, derived. -/
  coef : BiquadCoeffs
  /-- Z1, history. -/
  z1 : F32
  /-- Z2, history. -/
  z2 : F32
deriving DecidableEq, Repr

/-- A level meter (R56, R57). -/
structure Meter (cfg : Params := Config.default) where
  /-- FCS, the smoothing cutoff as requested. -/
  fcs : F32
  /-- COEF, derived. -/
  coef : F32
  /-- HOLDCFG. -/
  holdCfg : Word
  /-- PRESEL: none, or the biquad unit that pre-filters (code k names unit k - 1). -/
  presel : Option (Fin cfg.nbq)
  /-- LEVEL. -/
  level : F32
  /-- PEAK. -/
  peak : F32
  /-- HOLD. -/
  hold : Word
deriving DecidableEq, Repr

/-- An envelope unit (R60 to R66). -/
structure Envelope where
  /-- MODE. -/
  mode : EnvMode
  /-- ST. -/
  st : EnvState
  /-- LEVEL, an i32. -/
  level : Word
  /-- ASTEP. -/
  astep : BitVec 16
  /-- DSTEP. -/
  dstep : BitVec 16
  /-- RSTEP. -/
  rstep : BitVec 16
  /-- SUS. -/
  sus : BitVec 16
  /-- GATE, the gate level seen by the latest ENV.TICK. -/
  gate : Bool
deriving DecidableEq, Repr

/-- The reverberator (R67 to R69). -/
structure Reverb (cfg : Params := Config.default) where
  /-- PRESET. -/
  preset : Fin cfg.npreset
  /-- TONE. -/
  tone : F32
  /-- SIZE. -/
  size : F32
  klow : F32
  khigh : F32
  kpass : F32
  krt : F32
  kap : F32
  kcomb : F32
  kfb : F32
  kdry : F32
  krev : F32
  kecho : F32
  /-- ETIMEREQ, UQ20.12. -/
  etimereq : Word
  /-- ETIME, UQ20.12. -/
  etime : Word
  /-- S[0..7]. -/
  s : Vector Word 8
  /-- YL, the left comb output of the previous RV.PROC. -/
  yl : F32
  /-- YR, the right comb output of the previous RV.PROC. -/
  yr : F32
deriving DecidableEq, Repr

/-! ## The inputs of the two host agents -/

/-- What the environment does next (spec/00_scope.md R34, spec/20_memory.md R88, R93). Each happens between commands. -/
inductive HostEvent
  /-- The audio thread presents a command word. -/
  | command (c : CommandWord)
  /-- The UI writer issues a store of `v` to P[p]. -/
  | uiWrite (p : Fin Config.NP) (v : Word)
  /-- The oldest pending store to P[p] becomes its visible value. -/
  | uiDrain (p : Fin Config.NP)
deriving DecidableEq, Repr

/-! ## The whole state -/

/-- The whole architectural state (R40), the mailbox queues (R77, R93), and the host side that a run needs: pc (R42) and
the inputs still to come (R36; notes/assumptions/4.md). -/
structure State (cfg : Params := Config.default) where
  /-- x0..x15 (R41). -/
  x : Vector Word Config.NX
  /-- STATUS (R43). -/
  status : Status
  /-- ERRINFO (R44). -/
  errinfo : Word
  /-- FS in hertz, u32 (R46). -/
  fs : Word
  /-- FSF (R46). -/
  fsf : F32
  /-- CTRL_DIV, u32 (R47). -/
  ctrlDiv : Word
  /-- CTRL_CNT, u32 (R47). -/
  ctrlCnt : Word
  /-- K[0..15] (R48). -/
  k : Vector F32 Config.NK
  /-- P[0..31], the visible values (R49, R93). -/
  p : Vector Word Config.NP
  /-- The pending stores of each mailbox register, oldest first (R93). -/
  pq : Vector (List Word) Config.NP
  /-- The delay lines (R51). -/
  dl : Vector DelayLine cfg.ndl
  /-- The one-pole units (R52). -/
  op : Vector OnePole cfg.nop
  /-- The biquad units (R53, R54). -/
  bq : Vector Biquad cfg.nbq
  /-- The level meters (R56, R57). -/
  lm : Vector (Meter cfg) cfg.nlm
  /-- The envelope units (R60 to R66). -/
  env : Vector Envelope cfg.nenv
  /-- The reverberator (R67 to R69). -/
  rv : Reverb cfg
  /-- pc, the index of the next command in the host's list; the core holds none and no command reads it (R42). -/
  pc : Nat
  /-- The inputs still to come, in order (R34, R36). -/
  input : List HostEvent
deriving DecidableEq, Repr

/-- What a command does: the outcome of one step. -/
abbrev StepResult (cfg : Params := Config.default) := Host.Outcome (State cfg) Fault Refusal

/-! ## ResetState (R74) -/

/-- The cutoff a one-pole unit has after reset: units 0 to 4 are the reverberator's, at preset 0; the others 1000.0 Hz. -/
def resetCutoff (cfg : Params) (u : Fin cfg.nop) : F32 :=
  match u.val with
  | 0 => (cfg.preset cfg.preset0).fLow
  | 1 => (cfg.preset cfg.preset0).fHigh
  | 2 => (cfg.preset cfg.preset0).fDamp
  | 3 => (cfg.preset cfg.preset0).fDamp
  | 4 => cfg.rvFecho
  | _ => 0x447A0000#32

/-- One-pole unit `u` in ResetState. -/
def resetOnePole (cfg : Params) (fsf : F32) (u : Fin cfg.nop) : OnePole :=
  { fc := resetCutoff cfg u, a0 := onePoleA0 cfg (resetCutoff cfg u) fsf, z1 := fZero }

/-- A biquad unit in ResetState: LPF, 1000.0 Hz, Q = SQRT1_2, gain +0.0. -/
def resetBiquad (cfg : Params) (fsf : F32) : Biquad :=
  { ty := .lpf, fc := 0x447A0000#32, q := fSqrt1_2, gain := fZero
    coef := biquadCoeffs cfg .lpf 0x447A0000#32 fSqrt1_2 fZero fsf, z1 := fZero, z2 := fZero }

/-- A level meter in ResetState: 10.0 Hz, hold 48000, no pre-filter, zero meter. -/
def resetMeter (cfg : Params) (fsf : F32) : Meter cfg :=
  { fcs := 0x41200000#32, coef := meterCoef cfg 0x41200000#32 fsf, holdCfg := 48000#32, presel := none
    level := fZero, peak := fZero, hold := 0#32 }

/-- An envelope unit in ResetState: Idle in ADSR mode, every step TT[0], full sustain. -/
def resetEnvelope (cfg : Params) : Envelope :=
  { mode := .adsr, st := .idle, level := 0#32, astep := timeStep cfg 0, dstep := timeStep cfg 0, rstep := timeStep cfg 0
    sus := 65535#16, gate := false }

/-- The reverberator in ResetState: preset 0, a pure pass-through (R67). -/
def resetReverb (cfg : Params) (fs : Nat) : Reverb cfg :=
  { preset := cfg.preset0, tone := fHalf, size := fHalf, klow := fZero, khigh := fZero, kpass := fOne
    krt := 0x3F100000#32, kap := (cfg.preset cfg.preset0).kap, kcomb := (cfg.preset cfg.preset0).kcomb
    kfb := fZero, kdry := fOne, krev := fZero, kecho := fZero, etimereq := 0x02EE0000#32
    etime := echoTimeOf cfg 0x02EE0000#32 fs, s := layoutOf cfg cfg.preset0 fs, yl := fZero, yr := fZero }

/-- ResetState(fs), beside the mailbox and the host side, which it leaves as in `s` (R74, R121). -/
def resetState {cfg : Params} (fs : Nat) (s : State cfg) : State cfg :=
  { x := Vector.replicate Config.NX 0#32
    status := { ill := false, ctick := false }
    errinfo := 0#32
    fs := BitVec.ofNat 32 fs
    fsf := u2f fs
    ctrlDiv := BitVec.ofNat 32 (ctrlDivOf cfg fs)
    ctrlCnt := 0#32
    k := Vector.replicate Config.NK fZero
    p := s.p
    pq := s.pq
    dl := Vector.replicate cfg.ndl { dp := 0#32, buf := [] }
    op := Vector.ofFn (resetOnePole cfg (u2f fs))
    bq := Vector.replicate cfg.nbq (resetBiquad cfg (u2f fs))
    lm := Vector.replicate cfg.nlm (resetMeter cfg (u2f fs))
    env := Vector.replicate cfg.nenv (resetEnvelope cfg)
    rv := resetReverb cfg fs
    pc := s.pc
    input := s.input }

/-- The machine of a configuration right after power-on: ResetState(FS_DEFAULT), every mailbox register 0, every
pending-store queue empty, pc 0 (spec/70_reset_and_hazards.md R290, R307), and no input presented yet. -/
def State.resetAt (cfg : Params) : State cfg :=
  { x := Vector.replicate Config.NX 0#32
    status := { ill := false, ctick := false }
    errinfo := 0#32
    fs := BitVec.ofNat 32 cfg.fsDefault
    fsf := u2f cfg.fsDefault
    ctrlDiv := BitVec.ofNat 32 (ctrlDivOf cfg cfg.fsDefault)
    ctrlCnt := 0#32
    k := Vector.replicate Config.NK fZero
    p := Vector.replicate Config.NP 0#32
    pq := Vector.replicate Config.NP []
    dl := Vector.replicate cfg.ndl { dp := 0#32, buf := [] }
    op := Vector.ofFn (resetOnePole cfg (u2f cfg.fsDefault))
    bq := Vector.replicate cfg.nbq (resetBiquad cfg (u2f cfg.fsDefault))
    lm := Vector.replicate cfg.nlm (resetMeter cfg (u2f cfg.fsDefault))
    env := Vector.replicate cfg.nenv (resetEnvelope cfg)
    rv := resetReverb cfg cfg.fsDefault
    pc := 0
    input := [] }

/-- The machine handed to the host right after power-on: every parameter at the spec's default. -/
def State.reset : State := State.resetAt Config.default

end Sys2Proof.Machine
end

