-- ==== Sys2Proof/Machine/Flags.lean ====
section
/-! DEFINITION. The flags of STATUS (spec/10_state.md R43). The core has no arithmetic condition codes and no IEEE
exception flags; ILL and CTICK are all there is. -/

namespace Sys2Proof.Machine

/-- STATUS as RDREG shows it: bit 0 ILL, bit 1 CTICK, bits 31:2 zero. -/
def statusWord (f : Status) : Word :=
  (if f.ill then 1#32 else 0#32) ||| (if f.ctick then 2#32 else 0#32)

/-- STATUS.ILL <- 1 (spec/60_exceptions.md R271). -/
def setIll (f : Status) : Status := { f with ill := true }

/-- STATUS.CTICK <- tick (spec/40_system.md R124). -/
def setCtick (tick : Bool) (f : Status) : Status := { f with ctick := tick }

end Sys2Proof.Machine
end

