-- ==== Sys2Proof/Machine/Operands.lean ====
section
/-! DEFINITION. The operand forms of spec/30_encoding.md R102 to R104: the unit a unit field selects, the pre-filter and
preset a funct field selects, and the two parts of a UQ20.12 offset. Register operands are the sample registers of
Ops.lean; a register address is a form of Machine/RegMap.lean. -/

namespace Sys2Proof.Machine

/-- The unit of a bank of `n` that a unit field selects; none at or above the count (R104, R107 check (3)). -/
def unitOf (n : Nat) (u : UnitField) : Option (Fin n) := if h : u.toNat < n then some ⟨u.toNat, h⟩ else none

/-- The pre-filter that LM.CFG's funct selects: 0 none, k in 1..NBQ biquad unit k - 1; above NBQ not a selector
(spec/44_levelmeter.md R220). -/
def preselOf (cfg : Params) (f : BitVec 4) : Option (Option (Fin cfg.nbq)) :=
  if f.toNat = 0 then some none
  else if h : f.toNat - 1 < cfg.nbq then some (some ⟨f.toNat - 1, h⟩)
  else none

/-- The PRESEL code of a pre-filter selection, as RDREG shows it (spec/10_state.md R56). -/
def preselCode {n : Nat} (p : Option (Fin n)) : Nat :=
  match p with
  | none => 0
  | some u => u.val + 1

/-- The preset that RV.CHAR's funct selects; none at or above NPRESET (spec/45_reverberator.md R242). -/
def presetOf (cfg : Params) (f : BitVec 4) : Option (Fin cfg.npreset) :=
  if h : f.toNat < cfg.npreset then some ⟨f.toNat, h⟩ else none

/-- The integer part of a UQ20.12 offset, in cells (spec/41_delayline.md R146). -/
def offsetCells (a : Nat) : Nat := a / 4096

/-- The 12-bit fraction of a UQ20.12 offset (R146). -/
def offsetFraction (a : Nat) : Nat := a % 4096

end Sys2Proof.Machine
end

