-- ==== Sys2Proof/Machine/Ops.lean ====
section
/-! DEFINITION. The named operations that the meanings share: sample registers, delay memory, the filter, allpass and
interpolation steps, the register space, ending a command, and TAKING THE ONE EXCEPTION (spec/60_exceptions.md R271). There
is no return from an exception: IllegalCommand transfers control nowhere (R273, R274). -/

namespace Sys2Proof.Machine

variable {cfg : Params}

/-! ## Sample registers (spec/10_state.md R41) -/

/-- `x[r]`. -/
def getX (s : State cfg) (r : Reg) : Word := s.x[r]

/-- `x[r] <- v`. -/
def setX (s : State cfg) (r : Reg) (v : Word) : State cfg := { s with x := s.x.set r v }

/-! ## Ending a command -/

/-- `pc <- pc + 1`, at the end of every command (spec/00_scope.md R15, spec/10_state.md R42). -/
def advance (s : State cfg) : State cfg := { s with pc := s.pc + 1 }

/-- A command that has run to its end. -/
def complete (s : State cfg) : StepResult cfg := .next (advance s)

/-- `raise IllegalCommand(C)`: ILL is set, ERRINFO takes C[63:32], the command is skipped, and nothing else changes
(spec/60_exceptions.md R271). -/
def raiseIllegal (c : CommandWord) (s : State cfg) : State cfg :=
  advance { s with status := setIll s.status, errinfo := upperHalf c }

/-- The exception taken by a command `i` whose operands are out of range. -/
def illegal (i : Instr) (s : State cfg) : StepResult cfg := .next (raiseIllegal (encode i) s)

/-! ## Delay memory (spec/20_memory.md R80 to R86, spec/41_delayline.md R140 to R143) -/

/-- The cell at physical index `a`; an unlisted cell is blank. -/
def Memory.read (m : Memory) (a : Nat) : Word :=
  match m with
  | [] => Memory.blank
  | (b, v) :: rest => if b = a then v else Memory.read rest a

/-- Storing `v` at physical index `a`, keeping the canonical form: a blank value removes the entry. -/
def Memory.write (m : Memory) (a : Nat) (v : Word) : Memory :=
  match m with
  | [] => if v = Memory.blank then [] else [(a, v)]
  | (b, w) :: rest =>
    if b < a then (b, w) :: Memory.write rest a v
    else if b = a then (if v = Memory.blank then rest else (a, v) :: rest)
    else if v = Memory.blank then (b, w) :: rest
    else (a, v) :: (b, w) :: rest

/-- `MemRead(d, a)` (spec/00_scope.md R16). -/
def memRead (s : State cfg) (d : Fin cfg.ndl) (a : Nat) : Word := Memory.read s.dl[d].buf a

/-- `MemWrite(d, a, v)` (R16). -/
def memWrite (s : State cfg) (d : Fin cfg.ndl) (a : Nat) (v : Word) : State cfg :=
  { s with dl := s.dl.set d { s.dl[d] with buf := Memory.write s.dl[d].buf a v } }

/-- `idx(d, off) = (DP + off) & (CAP[d] - 1)` (R141, R18). -/
def dlIndex (s : State cfg) (d : Fin cfg.ndl) (off : Nat) : Nat := (s.dl[d].dp.toNat + off) &&& (cfg.cap d - 1)

/-- The cell at an offset. -/
def readOffset (s : State cfg) (d : Fin cfg.ndl) (off : Nat) : Word := memRead s d (dlIndex s d off)

/-- Storing at an offset. -/
def writeOffset (s : State cfg) (d : Fin cfg.ndl) (off : Nat) (v : Word) : State cfg := memWrite s d (dlIndex s d off) v

/-- The mask CAP[d] - 1 as a word. -/
def capMask (cfg : Params) (d : Fin cfg.ndl) : Word := BitVec.ofNat 32 (cfg.cap d - 1)

/-- `DP <- v & (CAP[d] - 1)` (spec/10_state.md R73). -/
def setCursor (s : State cfg) (d : Fin cfg.ndl) (v : Word) : State cfg :=
  { s with dl := s.dl.set d { s.dl[d] with dp := v &&& capMask cfg d } }

/-- The rotation: the cursor goes down by one, modulo the capacity (R142). -/
def rotate (s : State cfg) (d : Fin cfg.ndl) : State cfg := setCursor s d (s.dl[d].dp - 1#32)

/-- Every cell of a line blank and its cursor 0 (R149). -/
def clearLine (s : State cfg) (d : Fin cfg.ndl) : State cfg :=
  { s with dl := s.dl.set d { dp := 0#32, buf := [] } }

/-- The interpolated read at a UQ20.12 offset (R146). -/
def readInterpolated (s : State cfg) (d : Fin cfg.ndl) (a : Nat) : F32 :=
  let s0 := readOffset s d (offsetCells a)
  let s1 := readOffset s d (offsetCells a + 1)
  fadd s0 (fmul (fsub s1 s0) (frac12 (offsetFraction a)))

/-- The value an allpass section stores, from the accumulator and the tap: `acc - tap·g` (R147). -/
def allpassStore (acc tap g : F32) : F32 := fsub acc (fmul tap g)

/-- The value it returns, from the value stored and the tap: `w·g + tap` (R147). -/
def allpassOut (w tap g : F32) : F32 := fadd (fmul w g) tap

/-- One allpass section: the tap is read before the store (R147, R86). -/
def allpass (s : State cfg) (d : Fin cfg.ndl) (inOff outOff : Nat) (g acc : F32) : State cfg × F32 :=
  let tap := readOffset s d outOff
  let w := allpassStore acc tap g
  (writeOffset s d inOff w, allpassOut w tap g)

/-! ## Filters (spec/42_filters.md) -/

/-- The new Z1 of a one-pole unit for an input sample (R163). -/
def onePoleNext (o : OnePole) (v : F32) : F32 := fadd o.z1 (fmul (fsub v o.z1) o.a0)

/-- Replacing the history of a one-pole unit. -/
def setOpZ1 (s : State cfg) (u : Fin cfg.nop) (z : F32) : State cfg :=
  { s with op := s.op.set u { s.op[u] with z1 := z } }

/-- The lowpass step of a unit: the history advances and is the output (R163). -/
def lowpass (s : State cfg) (u : Fin cfg.nop) (v : F32) : State cfg × F32 :=
  let z := onePoleNext s.op[u] v
  (setOpZ1 s u z, z)

/-- The highpass step: the same advance, the output is what the lowpass leaves (R164). -/
def highpass (s : State cfg) (u : Fin cfg.nop) (v : F32) : State cfg × F32 :=
  let z := onePoleNext s.op[u] v
  (setOpZ1 s u z, fsub v z)

/-- Setting a one-pole cutoff and deriving A0; the history is kept (R161, R162). -/
def setCutoff (s : State cfg) (u : Fin cfg.nop) (fc : F32) : State cfg :=
  { s with op := s.op.set u { s.op[u] with fc := fc, a0 := onePoleA0 cfg fc s.fsf } }

/-- The biquad's output for an input sample (R168). -/
def biquadOut (b : Biquad) (v : F32) : F32 := fadd (fmul v b.coef.a0) b.z1

/-- The biquad after an input sample: both histories advance (R168). -/
def biquadAdvance (b : Biquad) (v : F32) : Biquad :=
  let out := biquadOut b v
  { b with
    z1 := fsub (fadd (fmul v b.coef.a1) b.z2) (fmul b.coef.b1 out)
    z2 := fsub (fmul v b.coef.a2) (fmul b.coef.b2 out) }

/-- One sample through a biquad unit of the bank. -/
def biquadStep (s : State cfg) (u : Fin cfg.nbq) (v : F32) : State cfg × F32 :=
  ({ s with bq := s.bq.set u (biquadAdvance s.bq[u] v) }, biquadOut s.bq[u] v)

/-! ## Rate derivation of every unit (spec/40_system.md R122) -/

/-- A one-pole unit with A0 derived again. -/
def deriveOnePole (cfg : Params) (fsf : F32) (o : OnePole) : OnePole := { o with a0 := onePoleA0 cfg o.fc fsf }

/-- A biquad unit with its coefficients derived again. -/
def deriveBiquad (cfg : Params) (fsf : F32) (b : Biquad) : Biquad :=
  { b with coef := biquadCoeffs cfg b.ty b.fc b.q b.gain fsf }

/-- A meter with COEF derived again. -/
def deriveMeter (fsf : F32) (m : Meter cfg) : Meter cfg := { m with coef := meterCoef cfg m.fcs fsf }

/-! ## The register space (spec/10_state.md R71 to R73) -/

/-- The ID constant (R45). -/
def idWord : Word := 0x44565350#32

/-- `RegRead`: the 32-bit value of a mapped register (spec/40_system.md R126). -/
def regRead (s : State cfg) : RegName cfg → Word
  | .id => idWord
  | .status => statusWord s.status
  | .errinfo => s.errinfo
  | .fs => s.fs
  | .fsf => s.fsf
  | .ctrlDiv => s.ctrlDiv
  | .ctrlCnt => s.ctrlCnt
  | .dlDp d => s.dl[d].dp
  | .dlLog2 d => BitVec.ofNat 32 (cfg.dlLog2.getD d.val 0)
  | .opFc u => s.op[u].fc
  | .opA0 u => s.op[u].a0
  | .opZ1 u => s.op[u].z1
  | .bqType u => (biquadTypeCode s.bq[u].ty).setWidth 32
  | .bqFc u => s.bq[u].fc
  | .bqQ u => s.bq[u].q
  | .bqGain u => s.bq[u].gain
  | .bqA0 u => s.bq[u].coef.a0
  | .bqA1 u => s.bq[u].coef.a1
  | .bqA2 u => s.bq[u].coef.a2
  | .bqB1 u => s.bq[u].coef.b1
  | .bqB2 u => s.bq[u].coef.b2
  | .bqZ1 u => s.bq[u].z1
  | .bqZ2 u => s.bq[u].z2
  | .envMode e => (envModeCode s.env[e].mode).setWidth 32
  | .envSt e => BitVec.ofNat 32 (envStateCode s.env[e].st)
  | .envLevel e => s.env[e].level
  | .envAstep e => s.env[e].astep.setWidth 32
  | .envDstep e => s.env[e].dstep.setWidth 32
  | .envRstep e => s.env[e].rstep.setWidth 32
  | .envSus e => s.env[e].sus.setWidth 32
  | .envGate e => if s.env[e].gate then 1#32 else 0#32
  | .lmFcs m => s.lm[m].fcs
  | .lmCoef m => s.lm[m].coef
  | .lmHoldcfg m => s.lm[m].holdCfg
  | .lmPresel m => BitVec.ofNat 32 (preselCode s.lm[m].presel)
  | .lmLevel m => s.lm[m].level
  | .lmPeak m => s.lm[m].peak
  | .lmHold m => s.lm[m].hold
  | .rvPreset => BitVec.ofNat 32 s.rv.preset.val
  | .rvTone => s.rv.tone
  | .rvSize => s.rv.size
  | .rvKlow => s.rv.klow
  | .rvKhigh => s.rv.khigh
  | .rvKpass => s.rv.kpass
  | .rvKrt => s.rv.krt
  | .rvKap => s.rv.kap
  | .rvKcomb => s.rv.kcomb
  | .rvKfb => s.rv.kfb
  | .rvKdry => s.rv.kdry
  | .rvKrev => s.rv.krev
  | .rvKecho => s.rv.kecho
  | .rvEtimereq => s.rv.etimereq
  | .rvEtime => s.rv.etime
  | .rvS i => s.rv.s[i]
  | .rvYl => s.rv.yl
  | .rvYr => s.rv.yr
  | .k i => s.k[i]
  | .p i => s.p[i]
  | .tt i => (timeStep cfg i.val).setWidth 32

/-- A step register's legal value, `clampu(v, 1, 65535)` (R73). -/
def legalStep (v : Word) : BitVec 16 := BitVec.ofNat 16 (clampu v.toNat 1 65535)

/-- Replacing a one-pole unit. -/
def setOp (s : State cfg) (u : Fin cfg.nop) (o : OnePole) : State cfg := { s with op := s.op.set u o }

/-- Replacing a biquad unit. -/
def setBq (s : State cfg) (u : Fin cfg.nbq) (b : Biquad) : State cfg := { s with bq := s.bq.set u b }

/-- Replacing a biquad unit's coefficients. -/
def setBqCoef (s : State cfg) (u : Fin cfg.nbq) (c : BiquadCoeffs) : State cfg := setBq s u { s.bq[u] with coef := c }

/-- Replacing an envelope unit. -/
def setEnv (s : State cfg) (e : Fin cfg.nenv) (v : Envelope) : State cfg := { s with env := s.env.set e v }

/-- Replacing a level meter. -/
def setLm (s : State cfg) (m : Fin cfg.nlm) (v : Meter cfg) : State cfg := { s with lm := s.lm.set m v }

/-- `RegWrite(A, legal(A, v))`: none where the register is read-only or the value is not legal (R73, R127). -/
def regWrite (s : State cfg) (r : RegName cfg) (v : Word) : Option (State cfg) :=
  match r with
  | .dlDp d => some (setCursor s d v)
  | .opA0 u => some (setOp s u { s.op[u] with a0 := v })
  | .opZ1 u => some (setOp s u { s.op[u] with z1 := v })
  | .bqA0 u => some (setBqCoef s u { s.bq[u].coef with a0 := v })
  | .bqA1 u => some (setBqCoef s u { s.bq[u].coef with a1 := v })
  | .bqA2 u => some (setBqCoef s u { s.bq[u].coef with a2 := v })
  | .bqB1 u => some (setBqCoef s u { s.bq[u].coef with b1 := v })
  | .bqB2 u => some (setBqCoef s u { s.bq[u].coef with b2 := v })
  | .bqZ1 u => some (setBq s u { s.bq[u] with z1 := v })
  | .bqZ2 u => some (setBq s u { s.bq[u] with z2 := v })
  | .envSt e => (envStateOf v.toNat).map fun st => setEnv s e { s.env[e] with st := st }
  | .envLevel e => some (setEnv s e { s.env[e] with level := BitVec.ofNat 32 (min v.toNat 65535) })
  | .envAstep e => some (setEnv s e { s.env[e] with astep := legalStep v })
  | .envDstep e => some (setEnv s e { s.env[e] with dstep := legalStep v })
  | .envRstep e => some (setEnv s e { s.env[e] with rstep := legalStep v })
  | .envSus e => some (setEnv s e { s.env[e] with sus := BitVec.ofNat 16 (min v.toNat 65535) })
  | .envGate e => some (setEnv s e { s.env[e] with gate := v.getLsbD 0 })
  | .lmCoef m => some (setLm s m { s.lm[m] with coef := v })
  | .lmLevel m => some (setLm s m { s.lm[m] with level := v })
  | .lmPeak m => some (setLm s m { s.lm[m] with peak := v })
  | .lmHold m => some (setLm s m { s.lm[m] with hold := v })
  | .rvYl => some { s with rv := { s.rv with yl := v } }
  | .rvYr => some { s with rv := { s.rv with yr := v } }
  | _ => none

/-! ## The mailbox (spec/20_memory.md R88, R93) -/

/-- `UiWrite(p, v)`: the store joins the end of the queue of P[p]. -/
def uiWrite (s : State cfg) (p : Fin Config.NP) (v : Word) : State cfg := { s with pq := s.pq.set p (s.pq[p] ++ [v]) }

/-- `UiDrain(p)`: the oldest pending store becomes the visible value; with an empty queue the action is not enabled and
nothing happens. -/
def uiDrain (s : State cfg) (p : Fin Config.NP) : State cfg :=
  match s.pq[p] with
  | [] => s
  | v :: rest => { s with p := s.p.set p v, pq := s.pq.set p rest }

end Sys2Proof.Machine
end

