-- ==== Sys2Proof/Machine/DelayLine.lean ====
section
/-! DEFINITION. The delay-line commands (spec/41_delayline.md). A unit index at or above NDL is an illegal command. -/

namespace Sys2Proof.Machine

variable {cfg : Params}

/-- DL.ROT dlD (R142). -/
def execDlRot (d : UnitField) (s : State cfg) : StepResult cfg :=
  match unitOf cfg.ndl d with
  | some i => complete (rotate s i)
  | none => illegal (.dlRot d) s

/-- DL.WR dlD, xs, #off (R144). -/
def execDlWr (d : UnitField) (rs1 : Reg) (off : Word) (s : State cfg) : StepResult cfg :=
  match unitOf cfg.ndl d with
  | some i => complete (writeOffset s i off.toNat (getX s rs1))
  | none => illegal (.dlWr d rs1 off) s

/-- DL.RD xd, dlD, #off (R145). -/
def execDlRd (rd : Reg) (d : UnitField) (off : Word) (s : State cfg) : StepResult cfg :=
  match unitOf cfg.ndl d with
  | some i => complete (setX s rd (readOffset s i off.toNat))
  | none => illegal (.dlRd rd d off) s

/-- DL.RDI xd, dlD, #qoff (R146). -/
def execDlRdi (rd : Reg) (d : UnitField) (qoff : Word) (s : State cfg) : StepResult cfg :=
  match unitOf cfg.ndl d with
  | some i => complete (setX s rd (readInterpolated s i qoff.toNat))
  | none => illegal (.dlRdi rd d qoff) s

/-- DL.AP xd, dlD, kN, #in,#out (R147). -/
def execDlAp (rd : Reg) (d : UnitField) (k : KReg) (inOff outOff : BitVec 16) (s : State cfg) : StepResult cfg :=
  match unitOf cfg.ndl d with
  | some i =>
    let r := allpass s i inOff.toNat outOff.toNat s.k[k] (getX s rd)
    complete (setX r.1 rd r.2)
  | none => illegal (.dlAp rd d k inOff outOff) s

/-- DL.CLR dlD (R149). -/
def execDlClr (d : UnitField) (s : State cfg) : StepResult cfg :=
  match unitOf cfg.ndl d with
  | some i => complete (clearLine s i)
  | none => illegal (.dlClr d) s

end Sys2Proof.Machine
end

