-- ==== Sys2Proof/Machine/Envelope.lean ====
section
/-! DEFINITION. The envelope commands and the table lookup (spec/43_envelope.md). A unit index at or above NENV is an
illegal command. -/

namespace Sys2Proof.Machine

variable {cfg : Params}

/-- The envelope after selecting a mode: a change resets to Idle at level 0 and keeps GATE; the mode already in force
changes nothing (R193). -/
def switchMode (v : Envelope) (m : EnvMode) : Envelope :=
  if m = v.mode then v else { v with mode := m, st := .idle, level := 0#32 }

/-- ENV.MODE envE, MODE (R193). -/
def execEnvMode (e : UnitField) (m : EnvMode) (s : State cfg) : StepResult cfg :=
  match unitOf cfg.nenv e with
  | some i => complete (setEnv s i (switchMode s.env[i] m))
  | none => illegal (.envMode e m) s

/-- The step register a selector names takes a step (R194). -/
def setStep (v : Envelope) (sel : TimeSel) (step : BitVec 16) : Envelope :=
  match sel with
  | .attack => { v with astep := step }
  | .decay => { v with dstep := step }
  | .release => { v with rstep := step }

/-- ENV.TIME envE, SEL, xs (R194). -/
def execEnvTime (e : UnitField) (sel : TimeSel) (rs1 : Reg) (s : State cfg) : StepResult cfg :=
  match unitOf cfg.nenv e with
  | some i => complete (setEnv s i (setStep s.env[i] sel (stepOfKnob cfg (getX s rs1))))
  | none => illegal (.envTime e sel rs1) s

/-- ENV.SUS envE, xs (R195). -/
def execEnvSus (e : UnitField) (rs1 : Reg) (s : State cfg) : StepResult cfg :=
  match unitOf cfg.nenv e with
  | some i => complete (setEnv s i { s.env[i] with sus := sustainOfKnob (getX s rs1) })
  | none => illegal (.envSus e rs1) s

/-- Step 1 of a tick: the state after the gate-edge rules (R197). In LFO mode GATE is the armed flag, and an armed
envelope leaves Idle by itself. -/
def edgeState (v : Envelope) (gate : Bool) : EnvState :=
  match v.mode with
  | .lfo => if v.st = .idle ∧ gate = true then .attack else v.st
  | _ =>
    if gate = true ∧ v.gate = false then .attack
    else if gate = false ∧ v.gate = true ∧ (v.st = .attack ∨ v.st = .decay ∨ v.st = .sustain) then .release
    else v.st

/-- Step 2 of a tick: the action of the state reached, on exact integers; the comparisons are strict (R197, R19). -/
def tickAction (v : Envelope) : Envelope :=
  match v.st with
  | .attack =>
    let l : Int := v.level.toInt + v.astep.toNat
    if 65535 < l then
      { v with level := 65535#32, st := match v.mode with | .adsr => .decay | _ => .release }
    else { v with level := BitVec.ofInt 32 l }
  | .decay =>
    let l : Int := v.level.toInt - v.dstep.toNat
    if l < v.sus.toNat then { v with level := v.sus.setWidth 32, st := .sustain }
    else { v with level := BitVec.ofInt 32 l }
  | .sustain => { v with level := v.sus.setWidth 32 }
  | .release =>
    let l : Int := v.level.toInt - v.rstep.toNat
    if l < 0 then { v with level := 0#32, st := .idle } else { v with level := BitVec.ofInt 32 l }
  | .idle => v

/-- One tick of an envelope: the gate is latched, the edge rules run, then the action of the state they reach (R197). -/
def envelopeTick (v : Envelope) (gate : Bool) : Envelope := tickAction { v with gate := gate, st := edgeState v gate }

/-- ENV.TICK xd, envE, #gate (R197). -/
def execEnvTick (rd : Reg) (e : UnitField) (gate : Bool) (s : State cfg) : StepResult cfg :=
  match unitOf cfg.nenv e with
  | some i =>
    let v := envelopeTick s.env[i] gate
    complete (setX (setEnv s i v) rd v.level)
  | none => illegal (.envTick rd e gate) s

/-- ENV.RDF xd, envE (R199). -/
def execEnvRdf (rd : Reg) (e : UnitField) (s : State cfg) : StepResult cfg :=
  match unitOf cfg.nenv e with
  | some i => complete (setX s rd (fdiv (i2f s.env[i].level.toInt) f65535))
  | none => illegal (.envRdf rd e) s

/-- ENV.RST envE (R200). -/
def execEnvRst (e : UnitField) (s : State cfg) : StepResult cfg :=
  match unitOf cfg.nenv e with
  | some i => complete (setEnv s i { s.env[i] with st := .idle, level := 0#32, gate := false })
  | none => illegal (.envRst e) s

/-- TLOOKUP xd, xs (R196). -/
def execTlookup (rd rs1 : Reg) (s : State cfg) : StepResult cfg :=
  complete (setX s rd ((stepOfKnob cfg (getX s rs1)).setWidth 32))

end Sys2Proof.Machine
end

