-- ==== Sys2Proof/Machine/Filters.lean ====
section
/-! DEFINITION. The one-pole and biquad commands (spec/42_filters.md). A unit index at or above the bank's count is an
illegal command. -/

namespace Sys2Proof.Machine

variable {cfg : Params}

/-- OP.SET opU, xs (R161). -/
def execOpSet (u : UnitField) (rs1 : Reg) (s : State cfg) : StepResult cfg :=
  match unitOf cfg.nop u with
  | some i => complete (setCutoff s i (getX s rs1))
  | none => illegal (.opSet u rs1) s

/-- OP.LP xd, xs, opU (R163). -/
def execOpLp (rd rs1 : Reg) (u : UnitField) (s : State cfg) : StepResult cfg :=
  match unitOf cfg.nop u with
  | some i =>
    let r := lowpass s i (getX s rs1)
    complete (setX r.1 rd r.2)
  | none => illegal (.opLp rd rs1 u) s

/-- OP.HP xd, xs, opU (R164). -/
def execOpHp (rd rs1 : Reg) (u : UnitField) (s : State cfg) : StepResult cfg :=
  match unitOf cfg.nop u with
  | some i =>
    let r := highpass s i (getX s rs1)
    complete (setX r.1 rd r.2)
  | none => illegal (.opHp rd rs1 u) s

/-- OP.RST opU (R169). -/
def execOpRst (u : UnitField) (s : State cfg) : StepResult cfg :=
  match unitOf cfg.nop u with
  | some i => complete (setOpZ1 s i fZero)
  | none => illegal (.opRst u) s

/-- The biquad that BQ.CFG makes of `b`: the history is cleared exactly when the type changes (R165). -/
def configureBiquad (cfg : Params) (b : Biquad) (ty : BiquadType) (fc q gain fsf : F32) : Biquad :=
  { ty := ty, fc := fc, q := q, gain := gain, coef := biquadCoeffs cfg ty fc q gain fsf
    z1 := if ty = b.ty then b.z1 else fZero
    z2 := if ty = b.ty then b.z2 else fZero }

/-- BQ.CFG bqU, TYPE, xfc, xq, xgain (R165). -/
def execBqCfg (u : UnitField) (ty : BiquadType) (rfc rq rgain : Reg) (s : State cfg) : StepResult cfg :=
  match unitOf cfg.nbq u with
  | some i => complete (setBq s i (configureBiquad cfg s.bq[i] ty (getX s rfc) (getX s rq) (getX s rgain) s.fsf))
  | none => illegal (.bqCfg u ty rfc rq rgain) s

/-- BQ.PROC xd, xs, bqU (R168). -/
def execBqProc (rd rs1 : Reg) (u : UnitField) (s : State cfg) : StepResult cfg :=
  match unitOf cfg.nbq u with
  | some i =>
    let r := biquadStep s i (getX s rs1)
    complete (setX r.1 rd r.2)
  | none => illegal (.bqProc rd rs1 u) s

/-- BQ.RST bqU (R170). -/
def execBqRst (u : UnitField) (s : State cfg) : StepResult cfg :=
  match unitOf cfg.nbq u with
  | some i => complete (setBq s i { s.bq[i] with z1 := fZero, z2 := fZero })
  | none => illegal (.bqRst u) s

end Sys2Proof.Machine
end

