-- ==== Sys2Proof/Machine/LevelMeter.lean ====
section
/-! DEFINITION. The level-meter commands (spec/44_levelmeter.md). A unit index at or above NLM, or a pre-filter selector
above NBQ, is an illegal command. -/

namespace Sys2Proof.Machine

variable {cfg : Params}

/-- LM.CFG lmM, xs, PRE, #hold (R220). -/
def execLmCfg (m : UnitField) (rs1 : Reg) (presel : BitVec 4) (hold : Word) (s : State cfg) : StepResult cfg :=
  match unitOf cfg.nlm m, preselOf cfg presel with
  | some i, some pre =>
    complete (setLm s i { s.lm[i] with
      fcs := getX s rs1, presel := pre, holdCfg := hold, coef := meterCoef cfg (getX s rs1) s.fsf })
  | _, _ => illegal (.lmCfg m rs1 presel hold) s

/-- The sample that a meter measures, and the state after its pre-filter has advanced (R222). -/
def prefilter (s : State cfg) (pre : Option (Fin cfg.nbq)) (v : F32) : State cfg × F32 :=
  match pre with
  | none => (s, v)
  | some u => biquadStep s u v

/-- A meter after one sample of magnitude `val` (R223): instant attack, smoothed release, peak hold. -/
def meterAdvance (m : Meter cfg) (val : F32) : Meter cfg :=
  if fgt val m.level then { m with level := val, peak := val, hold := m.holdCfg }
  else { m with level := fmul m.level m.coef, hold := if m.hold = 0#32 then 0#32 else m.hold - 1#32 }

/-- LM.PROC lmM, xs (R223). -/
def execLmProc (m : UnitField) (rs1 : Reg) (s : State cfg) : StepResult cfg :=
  match unitOf cfg.nlm m with
  | some i =>
    let r := prefilter s s.lm[i].presel (getX s rs1)
    complete (setLm r.1 i (meterAdvance s.lm[i] (fabs r.2)))
  | none => illegal (.lmProc m rs1) s

/-- The reading of a selector (R225). -/
def meterReading (m : Meter cfg) : ReadSel → Word
  | .level => m.level
  | .peak => if m.hold = 0#32 then fZero else m.peak
  | .levelDb => dB cfg m.level
  | .peakDb => if m.hold = 0#32 then cfg.dbFloor else dB cfg m.peak
  | .hold => m.hold
  | .light => clampf m.level fZero fOne

/-- LM.RD xd, lmM, SEL (R225). -/
def execLmRd (rd : Reg) (m : UnitField) (sel : ReadSel) (s : State cfg) : StepResult cfg :=
  match unitOf cfg.nlm m with
  | some i => complete (setX s rd (meterReading s.lm[i] sel))
  | none => illegal (.lmRd rd m sel) s

/-- LM.RST lmM (R227). -/
def execLmRst (m : UnitField) (s : State cfg) : StepResult cfg :=
  match unitOf cfg.nlm m with
  | some i => complete (setLm s i { s.lm[i] with level := fZero, peak := fZero, hold := 0#32 })
  | none => illegal (.lmRst m) s

end Sys2Proof.Machine
end

