-- ==== Sys2Proof/Machine/Reverberator.lean ====
section
/-! DEFINITION. The reverberator commands (spec/45_reverberator.md). The unit uses delay line 0 and one-pole units 0 to 4
of the banks (spec/10_state.md R70). -/

namespace Sys2Proof.Machine

variable {cfg : Params}

/-! ## Configuration -/

/-- The cutoff a preset gives one-pole unit `u`; the units from 5 on are not the reverberator's (R242). -/
def presetCutoff (cfg : Params) (p : Fin cfg.npreset) (u : Nat) : Option F32 :=
  match u with
  | 0 => some (cfg.preset p).fLow
  | 1 => some (cfg.preset p).fHigh
  | 2 => some (cfg.preset p).fDamp
  | 3 => some (cfg.preset p).fDamp
  | 4 => some cfg.rvFecho
  | _ => none

/-- A one-pole unit after a preset change: units 0 to 4 take the preset's cutoff and a derived A0, and keep Z1. -/
def presetOnePole (cfg : Params) (p : Fin cfg.npreset) (fsf : F32) (u : Nat) (o : OnePole) : OnePole :=
  match presetCutoff cfg p u with
  | some fc => { o with fc := fc, a0 := onePoleA0 cfg fc fsf }
  | none => o

/-- The effect of a preset, all as one command (R242). -/
def applyPreset (p : Fin cfg.npreset) (s : State cfg) : State cfg :=
  { s with
    op := s.op.mapFinIdx fun u o _ => presetOnePole cfg p s.fsf u o
    rv := { s.rv with
      preset := p
      kap := (cfg.preset p).kap
      kcomb := (cfg.preset p).kcomb
      s := layoutOf cfg p s.fs.toNat
      etime := echoTimeOf cfg s.rv.etimereq s.fs.toNat } }

/-- RV.CHAR PRESET (R242): a preset at or above NPRESET is an illegal command. -/
def execRvChar (preset : BitVec 4) (s : State cfg) : StepResult cfg :=
  match presetOf cfg preset with
  | some p => complete (applyPreset p s)
  | none => illegal (.rvChar preset) s

/-- The reverberator after a control `v` on a selector (R246). -/
def applyParam (r : Reverb cfg) (sel : ParamSel) (v : F32) : Reverb cfg :=
  match sel with
  | .tone =>
    { r with tone := clamp01 v, klow := toneKlow (clamp01 v), khigh := toneKhigh (clamp01 v)
             kpass := toneKpass (clamp01 v) }
  | .size => { r with size := clamp01 v, krt := sizeKrt cfg (clamp01 v) }
  | .feedback => { r with kfb := clampf v fZero cfg.kfbMax }
  | .dry => { r with kdry := clamp01 v }
  | .reverb => { r with krev := clamp01 v }
  | .echo => { r with kecho := clamp01 v }

/-- RV.PARAM SEL, xs (R246). -/
def execRvParam (sel : ParamSel) (rs1 : Reg) (s : State cfg) : StepResult cfg :=
  complete { s with rv := applyParam s.rv sel (getX s rs1) }

/-- RV.ETIME #qtime (R247). -/
def execRvEtime (qtime : Word) (s : State cfg) : StepResult cfg :=
  complete { s with rv := { s.rv with etimereq := qtime, etime := echoTimeOf cfg qtime s.fs.toNat } }

/-! ## RV.PROC, stage by stage (R248) -/

/-- S[r], the first offset of region r. -/
def regionStart (s : State cfg) (r : Fin 7) : Nat := s.rv.s[r.castSucc].toNat

/-- E[r] = S[r+1] - 1, the last offset of region r (R244). -/
def regionEnd (s : State cfg) (r : Fin 7) : Nat := s.rv.s[r.succ].toNat - 1

/-- An allpass section on a region of delay line 0. -/
def regionAllpass (s : State cfg) (r : Fin 7) (g acc : F32) : State cfg × F32 :=
  allpass s cfg.line0 (regionStart s r) (regionEnd s r) g acc

/-- Stage 1: rotate, then blend the input with its low and high bands (R250). -/
def rvTone (s : State cfg) (v : F32) : State cfg × F32 :=
  let s := rotate s cfg.line0
  let lo := lowpass s (cfg.borrowed 0) v
  let hi := highpass lo.1 (cfg.borrowed 1) v
  (hi.1, fadd (fadd (fmul lo.2 s.rv.klow) (fmul hi.2 s.rv.khigh)) (fmul v s.rv.kpass))

/-- Stage 2: the four diffuser sections in series (R252). -/
def rvDiffuse (s : State cfg) (t : F32) : State cfg × F32 :=
  let r0 := regionAllpass s 0 s.rv.kap t
  let r1 := regionAllpass r0.1 1 s.rv.kap r0.2
  let r2 := regionAllpass r1.1 2 s.rv.kap r1.2
  regionAllpass r2.1 3 s.rv.kap r2.2

/-- Stage 3: the cross-fed combs; each damped feedback reads the other channel's previous output (R249). -/
def rvCombs (s : State cfg) (d : F32) : State cfg :=
  let l := lowpass s (cfg.borrowed 2) s.rv.yr
  let r := lowpass l.1 (cfg.borrowed 3) s.rv.yl
  let combL := regionAllpass r.1 4 s.rv.kcomb (fadd d (fmul l.2 s.rv.krt))
  let combR := regionAllpass combL.1 5 s.rv.kcomb (fadd d (fmul r.2 s.rv.krt))
  { combR.1 with rv := { combR.1.rv with yl := combL.2, yr := combR.2 } }

/-- An interpolated tap of the echo region at a UQ20.12 time (R251). -/
def echoTap (s : State cfg) (time : Nat) : F32 := readInterpolated s cfg.line0 (regionStart s 6 * 4096 + time)

/-- Stage 4: the three echo taps are read, then the filtered feedback is written; the left and right echo outputs (R251). -/
def rvEcho (s : State cfg) (t : F32) : State cfg × F32 × F32 :=
  let time := s.rv.etime.toNat
  let m := echoTap s time
  let s2 := echoTap s (2 * time / 3)
  let s3 := echoTap s (time / 3)
  let fb := lowpass s (cfg.borrowed 4) m
  (writeOffset fb.1 cfg.line0 (regionStart s 6) (fadd t (fmul fb.2 s.rv.kfb)),
    fmul (fadd m s2) fHalf, fmul (fadd m s3) fHalf)

/-- Stage 5: the mix of one channel (R253). -/
def rvMix (r : Reverb cfg) (v comb echo : F32) : F32 :=
  fadd (fadd (fmul v r.kdry) (fmul comb r.krev)) (fmul echo r.kecho)

/-- One sample through the reverberator: the state and the two outputs (R248). -/
def reverbStep (s : State cfg) (v : F32) : State cfg × F32 × F32 :=
  let tone := rvTone s v
  let diff := rvDiffuse tone.1 tone.2
  let combs := rvCombs diff.1 diff.2
  let echo := rvEcho combs tone.2
  (echo.1, rvMix s.rv v combs.rv.yl echo.2.1, rvMix s.rv v combs.rv.yr echo.2.2)

/-- RV.PROC xl, xr, xs (R248): the left destination is written first. -/
def execRvProc (rl rr rs1 : Reg) (s : State cfg) : StepResult cfg :=
  let r := reverbStep s (getX s rs1)
  complete (setX (setX r.1 rl r.2.1) rr r.2.2)

/-- RV.RST (R255): delay line 0, the histories of one-pole units 0 to 4, YL and YR. -/
def clearReverb (s : State cfg) : State cfg :=
  { clearLine s cfg.line0 with
    op := s.op.mapFinIdx fun u o _ => if u < 5 then { o with z1 := fZero } else o
    rv := { s.rv with yl := fZero, yr := fZero } }

/-- RV.RST (R255). -/
def execRvRst (s : State cfg) : StepResult cfg := complete (clearReverb s)

end Sys2Proof.Machine
end

