-- ==== Sys2Proof/Machine/System.lean ====
section
/-! DEFINITION. The system commands (spec/40_system.md). -/

namespace Sys2Proof.Machine

variable {cfg : Params}

/-- NOP (R120). -/
def execNop (s : State cfg) : StepResult cfg := complete s

/-- RESET (R121): ResetState at the current FS; the mailbox, its queues and the host's side are kept. -/
def execReset (s : State cfg) : StepResult cfg := complete (resetState s.fs.toNat s)

/-- The effect of a sample rate `hz` (R122): the rate registers, and every derived register of every unit. -/
def setRate (hz : Nat) (s : State cfg) : State cfg :=
  let fs := clampu hz cfg.fsMin cfg.fsMax
  let fsf := u2f fs
  let div := ctrlDivOf cfg fs
  { s with
    fs := BitVec.ofNat 32 fs
    fsf := fsf
    ctrlDiv := BitVec.ofNat 32 div
    ctrlCnt := if div ≤ s.ctrlCnt.toNat then 0#32 else s.ctrlCnt
    op := Vector.ofFn fun u => deriveOnePole cfg fsf s.op[u]
    bq := Vector.ofFn fun u => deriveBiquad cfg fsf s.bq[u]
    lm := Vector.ofFn fun m => deriveMeter fsf s.lm[m]
    rv := { s.rv with s := layoutOf cfg s.rv.preset fs, etime := echoTimeOf cfg s.rv.etimereq fs } }

/-- SETFS #hz (R122). -/
def execSetfs (hz : Word) (s : State cfg) : StepResult cfg := complete (setRate hz.toNat s)

/-- Whether this CSTEP is a control tick (R124). -/
def ctrlTick (s : State cfg) : Bool := decide (s.ctrlDiv.toNat ≤ s.ctrlCnt.toNat + 1)

/-- CSTEP xd (R124). -/
def execCstep (rd : Reg) (s : State cfg) : StepResult cfg :=
  let tick := ctrlTick s
  complete (setX { s with
      ctrlCnt := if tick then 0#32 else s.ctrlCnt + 1#32
      status := setCtick tick s.status } rd (if tick then 1#32 else 0#32))

/-- LDI xd, #pattern (R125). -/
def execLdi (rd : Reg) (imm : Word) (s : State cfg) : StepResult cfg := complete (setX s rd imm)

/-- MOV xd, xs (R129). -/
def execMov (rd rs1 : Reg) (s : State cfg) : StepResult cfg := complete (setX s rd (getX s rs1))

/-- RDREG xd, #addr (R126): an unmapped address is an illegal command. -/
def execRdreg (rd : Reg) (addr : BitVec 16) (s : State cfg) : StepResult cfg :=
  match regAt cfg addr with
  | some r => complete (setX s rd (regRead s r))
  | none => illegal (.rdreg rd addr) s

/-- WRREG xs, #addr (R127): an unmapped or read-only address, or a value above 4 for an envelope ST register, is an
illegal command. -/
def execWrreg (rs1 : Reg) (addr : BitVec 16) (s : State cfg) : StepResult cfg :=
  match regAt cfg addr with
  | some r =>
    match regWrite s r (getX s rs1) with
    | some t => complete t
    | none => illegal (.wrreg rs1 addr) s
  | none => illegal (.wrreg rs1 addr) s

/-- SETK kN, xs (R128). -/
def execSetk (k : KReg) (rs1 : Reg) (s : State cfg) : StepResult cfg :=
  complete { s with k := s.k.set k (clampf (getX s rs1) (fneg cfg.kMax) cfg.kMax) }

end Sys2Proof.Machine
end

