-- ==== Sys2Proof/Machine/Dispatch.lean ====
section
/-! DEFINITION. The dispatch: one arm per command, each one call of the command's meaning. -/

namespace Sys2Proof.Machine

def exec (i : Instr) (s : State) : Host.Outcome State Fault Refusal :=
  match i with
  | .nop => Sys2Proof.Machine.execNop s
  | .reset => Sys2Proof.Machine.execReset s
  | .setfs hz => Sys2Proof.Machine.execSetfs hz s
  | .cstep rd => Sys2Proof.Machine.execCstep rd s
  | .ldi rd imm => Sys2Proof.Machine.execLdi rd imm s
  | .mov rd rs1 => Sys2Proof.Machine.execMov rd rs1 s
  | .rdreg rd addr => Sys2Proof.Machine.execRdreg rd addr s
  | .wrreg rs1 addr => Sys2Proof.Machine.execWrreg rs1 addr s
  | .setk k rs1 => Sys2Proof.Machine.execSetk k rs1 s
  | .dlRot d => Sys2Proof.Machine.execDlRot d s
  | .dlWr d rs1 off => Sys2Proof.Machine.execDlWr d rs1 off s
  | .dlRd rd d off => Sys2Proof.Machine.execDlRd rd d off s
  | .dlRdi rd d qoff => Sys2Proof.Machine.execDlRdi rd d qoff s
  | .dlAp rd d k inOff outOff => Sys2Proof.Machine.execDlAp rd d k inOff outOff s
  | .dlClr d => Sys2Proof.Machine.execDlClr d s
  | .opSet u rs1 => Sys2Proof.Machine.execOpSet u rs1 s
  | .opLp rd rs1 u => Sys2Proof.Machine.execOpLp rd rs1 u s
  | .opHp rd rs1 u => Sys2Proof.Machine.execOpHp rd rs1 u s
  | .opRst u => Sys2Proof.Machine.execOpRst u s
  | .bqCfg u ty rfc rq rgain => Sys2Proof.Machine.execBqCfg u ty rfc rq rgain s
  | .bqProc rd rs1 u => Sys2Proof.Machine.execBqProc rd rs1 u s
  | .bqRst u => Sys2Proof.Machine.execBqRst u s
  | .envMode e m => Sys2Proof.Machine.execEnvMode e m s
  | .envTime e sel rs1 => Sys2Proof.Machine.execEnvTime e sel rs1 s
  | .envSus e rs1 => Sys2Proof.Machine.execEnvSus e rs1 s
  | .envTick rd e gate => Sys2Proof.Machine.execEnvTick rd e gate s
  | .envRdf rd e => Sys2Proof.Machine.execEnvRdf rd e s
  | .envRst e => Sys2Proof.Machine.execEnvRst e s
  | .tlookup rd rs1 => Sys2Proof.Machine.execTlookup rd rs1 s
  | .lmCfg m rs1 presel hold => Sys2Proof.Machine.execLmCfg m rs1 presel hold s
  | .lmProc m rs1 => Sys2Proof.Machine.execLmProc m rs1 s
  | .lmRd rd m sel => Sys2Proof.Machine.execLmRd rd m sel s
  | .lmRst m => Sys2Proof.Machine.execLmRst m s
  | .rvChar preset => Sys2Proof.Machine.execRvChar preset s
  | .rvParam sel rs1 => Sys2Proof.Machine.execRvParam sel rs1 s
  | .rvEtime qtime => Sys2Proof.Machine.execRvEtime qtime s
  | .rvProc rl rr rs1 => Sys2Proof.Machine.execRvProc rl rr rs1 s
  | .rvRst => Sys2Proof.Machine.execRvRst s

end Sys2Proof.Machine
end

