-- ==== Sys2Proof/Machine/Step.lean ====
section
/-! DEFINITION. One step of the machine: the next input of the two host agents takes effect. The core fetches nothing
(spec/20_memory.md R97, spec/70_reset_and_hazards.md R307): a command is the word the host presents next. -/

namespace Sys2Proof.Machine

/-- One command word: the command it decodes to runs, or the exception is taken (spec/30_encoding.md R107,
spec/60_exceptions.md R271). -/
def stepCommand (c : CommandWord) (s : State) : StepResult :=
  match decode c with
  | .ok i => exec i s
  | .error _ => .next (raiseIllegal c s)

/-- One step. With no input left the run has ended and the core holds its state (spec/00_scope.md R36,
spec/60_exceptions.md R285; notes/assumptions/4.md). -/
def step (s : State) : Host.Outcome State Fault Refusal :=
  match s.input with
  | [] => .next s
  | .command c :: rest => stepCommand c { s with input := rest }
  | .uiWrite p v :: rest => .next (uiWrite { s with input := rest } p v)
  | .uiDrain p :: rest => .next (uiDrain { s with input := rest } p)

/-- The state in which the host presents an opcode-table word next. -/
def State.withFetchWord (s : State) (nbits w : Nat) : State :=
  { s with input := .command (tableWord nbits w) :: s.input }

end Sys2Proof.Machine
end

