-- ==== Sys2Proof/Machine/AnyConfig.lean ====
section
/-! DEFINITION. The machine at any configuration (spec/00_scope.md R8: the model takes the implementation parameters as
arguments). Machine/Dispatch.lean and Machine/Step.lean are this machine at the defaults, in the form the host reads
(Sys2Proof/Laws/Params.lean proves the two equal); both call the same meanings. -/

namespace Sys2Proof.Machine

variable {cfg : Params}

/-- One command at a configuration: the meanings of Machine/Dispatch.lean. -/
def execAt (i : Instr) (s : State cfg) : StepResult cfg :=
  match i with
  | .nop => execNop s
  | .reset => execReset s
  | .setfs hz => execSetfs hz s
  | .cstep rd => execCstep rd s
  | .ldi rd imm => execLdi rd imm s
  | .mov rd rs1 => execMov rd rs1 s
  | .rdreg rd addr => execRdreg rd addr s
  | .wrreg rs1 addr => execWrreg rs1 addr s
  | .setk k rs1 => execSetk k rs1 s
  | .dlRot d => execDlRot d s
  | .dlWr d rs1 off => execDlWr d rs1 off s
  | .dlRd rd d off => execDlRd rd d off s
  | .dlRdi rd d qoff => execDlRdi rd d qoff s
  | .dlAp rd d k inOff outOff => execDlAp rd d k inOff outOff s
  | .dlClr d => execDlClr d s
  | .opSet u rs1 => execOpSet u rs1 s
  | .opLp rd rs1 u => execOpLp rd rs1 u s
  | .opHp rd rs1 u => execOpHp rd rs1 u s
  | .opRst u => execOpRst u s
  | .bqCfg u ty rfc rq rgain => execBqCfg u ty rfc rq rgain s
  | .bqProc rd rs1 u => execBqProc rd rs1 u s
  | .bqRst u => execBqRst u s
  | .envMode e m => execEnvMode e m s
  | .envTime e sel rs1 => execEnvTime e sel rs1 s
  | .envSus e rs1 => execEnvSus e rs1 s
  | .envTick rd e gate => execEnvTick rd e gate s
  | .envRdf rd e => execEnvRdf rd e s
  | .envRst e => execEnvRst e s
  | .tlookup rd rs1 => execTlookup rd rs1 s
  | .lmCfg m rs1 presel hold => execLmCfg m rs1 presel hold s
  | .lmProc m rs1 => execLmProc m rs1 s
  | .lmRd rd m sel => execLmRd rd m sel s
  | .lmRst m => execLmRst m s
  | .rvChar preset => execRvChar preset s
  | .rvParam sel rs1 => execRvParam sel rs1 s
  | .rvEtime qtime => execRvEtime qtime s
  | .rvProc rl rr rs1 => execRvProc rl rr rs1 s
  | .rvRst => execRvRst s

/-- One command word at a configuration (spec/30_encoding.md R107, spec/60_exceptions.md R271). -/
def stepCommandAt (c : CommandWord) (s : State cfg) : StepResult cfg :=
  match decodeAt cfg c with
  | .ok i => execAt i s
  | .error _ => .next (raiseIllegal c s)

/-- One step at a configuration (spec/00_scope.md R34, R36). -/
def stepAt (s : State cfg) : StepResult cfg :=
  match s.input with
  | [] => .next s
  | .command c :: rest => stepCommandAt c { s with input := rest }
  | .uiWrite p v :: rest => .next (uiWrite { s with input := rest } p v)
  | .uiDrain p :: rest => .next (uiDrain { s with input := rest } p)

/-- The machine of a configuration, as the host takes one. -/
def coreAt (cfg : Params) : Host.Core :=
  { State := State cfg, Fault := Fault, Refusal := Refusal, step := stepAt, reset := State.resetAt cfg }

/-- The machine of a parameter record; none where the record is ill formed, which the model refuses (R12,
spec/93_implementation_defined.md U8). -/
def coreOf (r : RawParams) : Option Host.Core := (Params.ofRaw r).map coreAt

end Sys2Proof.Machine
end

