-- ==== Sys2Proof/Safety.lean ====
section
/-! DEFINITION. What counts as a safe state and a safe run of the core, in the terms the claims use: the invariants that
the spec states of the registers between commands, the absence of illegal commands, a run of several commands, and what it
is for a pattern to be the binary32 value nearest a number. -/

namespace Sys2Proof.Machine

variable {cfg : Params}

/-- A value in [lo, hi], so not a NaN. -/
abbrev inRange (lo hi v : F32) : Prop := fle lo v = true ∧ fle v hi = true

/-- The rate registers agree (spec/10_state.md R46, R47). -/
abbrev State.RateInv (s : State cfg) : Prop :=
  cfg.fsMin ≤ s.fs.toNat ∧ s.fs.toNat ≤ cfg.fsMax ∧ s.fsf = u2f s.fs.toNat
    ∧ s.ctrlDiv.toNat = ctrlDivOf cfg s.fs.toNat ∧ s.ctrlCnt.toNat < s.ctrlDiv.toNat

/-- Every allpass coefficient is a number of magnitude at most KMAX (spec/10_state.md R48). -/
abbrev State.CoefInv (s : State cfg) : Prop := ∀ i : Fin Config.NK, inRange (fneg cfg.kMax) cfg.kMax s.k[i]

/-- Every cursor is inside its line and every buffer in canonical form (spec/10_state.md R51). -/
abbrev State.LineInv (s : State cfg) : Prop :=
  ∀ d : Fin cfg.ndl, s.dl[d].dp.toNat < cfg.cap d ∧ Memory.wf (cfg.cap d) s.dl[d].buf = true

/-- Every envelope level is in 0..65535 and every step in 1..65535 (spec/10_state.md R63, R64). -/
abbrev State.EnvInv (s : State cfg) : Prop :=
  ∀ e : Fin cfg.nenv, s.env[e].level.toNat ≤ 65535 ∧ 1 ≤ s.env[e].astep.toNat ∧ 1 ≤ s.env[e].dstep.toNat
    ∧ 1 ≤ s.env[e].rstep.toNat

/-- The reverberator's registers are what its preset, its knobs and the rate make of them, each knob within its bounds
(spec/10_state.md R67, R68, spec/45_reverberator.md R242 to R247). -/
abbrev State.ReverbInv (s : State cfg) : Prop :=
  s.rv.s = layoutOf cfg s.rv.preset s.fs.toNat ∧ s.rv.etime = echoTimeOf cfg s.rv.etimereq s.fs.toNat
    ∧ s.rv.kap = (cfg.preset s.rv.preset).kap ∧ s.rv.kcomb = (cfg.preset s.rv.preset).kcomb
    ∧ inRange fZero fOne s.rv.tone ∧ s.rv.klow = toneKlow s.rv.tone ∧ s.rv.khigh = toneKhigh s.rv.tone
    ∧ s.rv.kpass = toneKpass s.rv.tone ∧ inRange fZero fOne s.rv.size ∧ s.rv.krt = sizeKrt cfg s.rv.size
    ∧ inRange fZero cfg.kfbMax s.rv.kfb ∧ inRange fZero fOne s.rv.kdry ∧ inRange fZero fOne s.rv.krev
    ∧ inRange fZero fOne s.rv.kecho

/-- What holds of the registers between commands, whatever the host sends. -/
abbrev State.Inv (s : State cfg) : Prop := s.RateInv ∧ s.CoefInv ∧ s.LineInv ∧ s.EnvInv ∧ s.ReverbInv

/-- A meter that no WRREG has disturbed: a coefficient in [0, 1], a level that is not negative, a peak not below it
(spec/44_levelmeter.md R224). -/
abbrev Meter.Undisturbed (m : Meter cfg) : Prop :=
  inRange fZero fOne m.coef ∧ fle fZero m.level = true ∧ fle m.level m.peak = true

/-- No command has been illegal since the last reset (spec/10_state.md R43). -/
abbrev State.NoIllegal (s : State cfg) : Prop := s.status.ill = false

/-! ## Runs of commands -/

/-- Commands executed in order, each to completion, the first stop ending the run (spec/00_scope.md R34, R36). -/
def execAll : List Instr → State → StepResult
  | [], s => .next s
  | i :: rest, s =>
    match exec i s with
    | .next t => execAll rest t
    | .fault f => .fault f
    | .refused r => .refused r

/-- The unit field that selects unit `u` of a bank (spec/30_encoding.md R104). -/
abbrev unitField {n : Nat} (u : Fin n) : UnitField := BitVec.ofNat 8 u.val

/-- The 16-bit address of a register of the register space (spec/10_state.md R71). -/
abbrev regAddr (block unit field : Nat) : BitVec 16 := BitVec.ofNat 16 (block * 4096 + unit * 16 + field)

/-- The sample registers a command writes: its rd field, and rd2 for RV.PROC; RESET writes all sixteen
(spec/30_encoding.md R105). -/
def destinations : Instr → List Reg
  | .nop => []
  | .reset => List.finRange Config.NX
  | .setfs _ => []
  | .cstep rd => [rd]
  | .ldi rd _ => [rd]
  | .mov rd _ => [rd]
  | .rdreg rd _ => [rd]
  | .wrreg _ _ => []
  | .setk _ _ => []
  | .dlRot _ => []
  | .dlWr _ _ _ => []
  | .dlRd rd _ _ => [rd]
  | .dlRdi rd _ _ => [rd]
  | .dlAp rd _ _ _ _ => [rd]
  | .dlClr _ => []
  | .opSet _ _ => []
  | .opLp rd _ _ => [rd]
  | .opHp rd _ _ => [rd]
  | .opRst _ => []
  | .bqCfg _ _ _ _ _ => []
  | .bqProc rd _ _ => [rd]
  | .bqRst _ => []
  | .envMode _ _ => []
  | .envTime _ _ _ => []
  | .envSus _ _ => []
  | .envTick rd _ _ => [rd]
  | .envRdf rd _ => [rd]
  | .envRst _ => []
  | .tlookup rd _ => [rd]
  | .lmCfg _ _ _ _ => []
  | .lmProc _ _ => []
  | .lmRd rd _ _ => [rd]
  | .lmRst _ => []
  | .rvChar _ => []
  | .rvParam _ _ => []
  | .rvEtime _ => []
  | .rvProc rl rr _ => [rl, rr]
  | .rvRst => []

/-! ## Correct rounding (spec/00_scope.md R23) -/

/-- From this magnitude on, half a unit in the last place above the largest finite value, in units of 2^-149, round to
nearest gives an infinity. -/
def overflowUnits : Nat := (2 ^ 25 - 1) * 2 ^ 252

/-- `r` is the binary32 value nearest `n / d` units of 2^-149, ties going to the even pattern, overflow to the infinity of
the sign of `n`. -/
def IsNearest (r : F32) (n : Int) (d : Nat) : Prop :=
  if n.natAbs < overflowUnits * d then
    isFinite r = true ∧ ∀ c : F32, isFinite c = true →
      (fvalue r * d - n).natAbs ≤ (fvalue c * d - n).natAbs
        ∧ ((fvalue r * d - n).natAbs = (fvalue c * d - n).natAbs → fvalue c ≠ fvalue r → fmag r % 2 = 0)
  else isInf r = true ∧ fsign r = decide (n < 0)

end Sys2Proof.Machine
end

