-- ==== Sys2Proof/Certificates/Slice0/Obligations.lean ====
section
/-! DEFINITION. The statements for the provers, in the order of the spec's files: encoding, the machine as a whole, then
each family of commands. A statement that covers a command says in which state the command completes, as an equation; an
operand that the encoding does not admit is the subject of `OutOfRangeOperandTakesTheException`. -/

open Sys2Proof Sys2Proof.Machine

/-! ## Encoding (spec/30_encoding.md) -/

/-- Every well-formed command is what its own word decodes to, with every operand at every value the encoding admits
(R105, R107). -/
def Obligations.DecodeOfEncodeIsTheCommand : Prop :=
  ∀ i : Instr, i.wellFormed = true → decode (encode i) = .ok i

/-- A word that decodes is the word of the command it decodes to, so no two words are one command, and what it decodes to
is well formed (R101, R108). -/
def Obligations.EncodeOfDecodeIsTheWord : Prop :=
  ∀ (c : CommandWord) (i : Instr), decode c = .ok i → encode i = c ∧ i.wellFormed = true

/-- The reserved opcodes are exactly the ranges of R108. -/
def Obligations.ReservedOpcodesAreIllegal : Prop :=
  ∀ c : CommandWord, decode c = .error .reservedOpcode ↔
    (let o := c.toNat / 2 ^ 56
     (0x09 ≤ o ∧ o ≤ 0x0F) ∨ (0x16 ≤ o ∧ o ≤ 0x1F) ∨ (0x27 ≤ o ∧ o ≤ 0x2F) ∨ (0x37 ≤ o ∧ o ≤ 0x3F)
       ∨ (0x44 ≤ o ∧ o ≤ 0x4F) ∨ 0x55 ≤ o)

/-- The three worked encodings of R114, field by field and both ways; and the selector codes of R111 in the funct field, with
the presets and the pre-filters they name. -/
def Obligations.WorkedEncodingsDecodeAndEncode : Prop :=
  (fieldsOf 0x2521000300000000#64
      = { opcode := 0x25#8, rd := 2#4, rs1 := 1#4, rs2 := 0#4, funct := 0#4, unit := 3#8, imm := 0#32 }
    ∧ decode 0x2521000300000000#64 = .ok (.bqProc 2 1 3#8) ∧ encode (.bqProc 2 1 3#8) = 0x2521000300000000#64
    ∧ fieldsOf 0x1440020100000071#64
      = { opcode := 0x14#8, rd := 4#4, rs1 := 0#4, rs2 := 0#4, funct := 2#4, unit := 1#8, imm := 0x00000071#32 }
    ∧ decode 0x1440020100000071#64 = .ok (.dlAp 4 1#8 2 0#16 113#16)
    ∧ encode (.dlAp 4 1#8 2 0#16 113#16) = 0x1440020100000071#64
    ∧ decode 0x041000003F800000#64 = .ok (.ldi 1 0x3F800000#32) ∧ encode (.ldi 1 0x3F800000#32) = 0x041000003F800000#64)
  ∧ (∀ (u : UnitField) (r q g : Reg) (ty : BiquadType), (encodeFields (.bqCfg u ty r q g)).funct
      = match ty with
        | .lpf => 0#4 | .bpf => 1#4 | .hpf => 2#4 | .notch => 3#4 | .peak => 4#4 | .lowshelf => 5#4 | .highshelf => 6#4)
  ∧ (∀ (u : UnitField) (m : EnvMode), (encodeFields (.envMode u m)).funct
      = match m with | .adsr => 0#4 | .ar => 1#4 | .lfo => 2#4)
  ∧ (∀ (u : UnitField) (r : Reg) (sel : TimeSel), (encodeFields (.envTime u sel r)).funct
      = match sel with | .attack => 0#4 | .decay => 1#4 | .release => 2#4)
  ∧ (∀ (u : UnitField) (r : Reg) (sel : ReadSel), (encodeFields (.lmRd r u sel)).funct
      = match sel with
        | .level => 0#4 | .peak => 1#4 | .levelDb => 2#4 | .peakDb => 3#4 | .hold => 4#4 | .light => 5#4)
  ∧ (∀ (r : Reg) (sel : ParamSel), (encodeFields (.rvParam sel r)).funct
      = match sel with
        | .tone => 0#4 | .size => 1#4 | .feedback => 2#4 | .dry => 3#4 | .reverb => 4#4 | .echo => 5#4)
  ∧ (∀ f : BitVec 4, (encodeFields (.rvChar f)).funct = f)
  ∧ Config.preset 0 = Config.room ∧ Config.preset 1 = Config.hall
  ∧ (∀ (u : UnitField) (r : Reg) (f : BitVec 4) (hold : Word), (encodeFields (.lmCfg u r f hold)).funct = f)
  ∧ (∀ cfg : Params, preselOf cfg 0#4 = some none
      ∧ ∀ (f : BitVec 4) (u : Fin cfg.nbq), f.toNat = u.val + 1 → preselOf cfg f = some (some u))

/-! ## The machine as a whole -/

/-- When the host presents a word that decodes to a command, the step runs that command on the state with the word taken
off the host's list. -/
def Obligations.StepRunsTheDecodedCommand : Prop :=
  ∀ (s : State) (c : CommandWord) (rest : List HostEvent) (i : Instr),
    s.input = .command c :: rest → decode c = .ok i → step s = exec i { s with input := rest }

/-- Every word that fails a decode check, and every WRREG of a value above 4 to an envelope ST register, sets ILL, records
C[63:32], is skipped, and does nothing else (R271). -/
def Obligations.IllegalCommandHasOnlyItsRecordedEffect : Prop :=
  ∀ (s : State) (c : CommandWord) (rest : List HostEvent), s.input = .command c :: rest →
    (∀ e, decode c = .error e →
      step s = .next { s with
        status := { s.status with ill := true }, errinfo := c.extractLsb' 32 32, pc := s.pc + 1, input := rest })
    ∧ (∀ (rs1 : Reg) (e : Fin Config.NENV), decode c = .ok (.wrreg rs1 (regAddr 4 e 1)) → 4 < s.x[rs1].toNat →
      step s = .next { s with
        status := { s.status with ill := true }, errinfo := c.extractLsb' 32 32, pc := s.pc + 1, input := rest })

/-- At every configuration a command with an operand outside its range (a unit, a selector, an unmapped or read-only
address) has the effect of the exception on its own word. (A word of that kind does not decode; this says the same of a
command as syntax. DEDUCED, notes/assumptions/9.md.) So a word whose unit index is not below the count of its bank is an
illegal command, whatever the counts (R10, R271); and the machine of the defaults is the one of exec and step. -/
def Obligations.OutOfRangeOperandTakesTheException : Prop :=
  (∀ (cfg : Params) (i : Instr) (s : State cfg), i.wellFormedAt cfg = false →
    execAt i s = .next { s with
      status := { s.status with ill := true }, errinfo := (encode i).extractLsb' 32 32, pc := s.pc + 1 })
  ∧ (∀ (cfg : Params) (s : State cfg) (c : CommandWord) (rest : List HostEvent), s.input = .command c :: rest →
    let o := c.toNat / 2 ^ 56
    let u := c.toNat / 2 ^ 32 % 256
    (0x10 ≤ o ∧ o ≤ 0x15 ∧ cfg.ndl ≤ u) ∨ (0x20 ≤ o ∧ o ≤ 0x23 ∧ cfg.nop ≤ u) ∨ (0x24 ≤ o ∧ o ≤ 0x26 ∧ cfg.nbq ≤ u)
      ∨ (0x30 ≤ o ∧ o ≤ 0x35 ∧ cfg.nenv ≤ u) ∨ (0x40 ≤ o ∧ o ≤ 0x43 ∧ cfg.nlm ≤ u) →
    stepAt s = .next { s with
      status := { s.status with ill := true }, errinfo := c.extractLsb' 32 32, pc := s.pc + 1, input := rest })
  ∧ (∀ (i : Instr) (s : State), execAt i s = exec i s ∧ stepAt s = step s)

/-- A UI store joins the end of the queue of its register; a drain moves the oldest pending store into the visible value;
neither changes anything else (R88, R93). With no pending store a drain does nothing (notes/assumptions/7.md). -/
def Obligations.MailboxActionsTouchOnlyTheirRegister : Prop :=
  ∀ (s : State) (p : Fin Config.NP) (v : Word) (rest : List HostEvent),
    (s.input = .uiWrite p v :: rest → step s = .next { s with pq := s.pq.set p (s.pq[p] ++ [v]), input := rest })
    ∧ (∀ tail, s.input = .uiDrain p :: rest → s.pq[p] = v :: tail →
      step s = .next { s with p := s.p.set p v, pq := s.pq.set p tail, input := rest })
    ∧ (s.input = .uiDrain p :: rest → s.pq[p] = [] → step s = .next { s with input := rest })

/-- Every step from every state answers a next state: nothing blocks, faults or is refused (R35, R270). -/
def Obligations.EveryStepAnswersANextState : Prop := ∀ s : State, ∃ t, step s = .next t

/-- The invariant of Sys2Proof/Safety.lean (rate registers agree, coefficients bounded, cursors inside their lines and
buffers canonical, envelope levels and steps in range, reverberator registers derived from its knobs) is kept by every
step from every state that has it. -/
def Obligations.EveryStepKeepsTheInvariant : Prop := ∀ s t : State, s.Inv → step s = .next t → t.Inv

/-- The reset state has the invariant. -/
def Obligations.ResetStateHasTheInvariant : Prop := State.reset.Inv

/-- No command writes the mailbox or its queues or changes the host's list, and each advances pc by one (R42, R49). That
RESET, too, keeps the list and only advances pc is the model's reading: DEDUCED, notes/assumptions/8.md. -/
def Obligations.CommandsKeepTheMailboxAndAdvancePc : Prop :=
  ∀ (i : Instr) (s t : State), exec i s = .next t →
    t.p = s.p ∧ t.pq = s.pq ∧ t.input = s.input ∧ t.pc = s.pc + 1

/-- A K register changes only by a SETK that names it and by RESET; a rate register only by SETFS and RESET (which keeps FS);
CTRL_CNT only by these and CSTEP; STATUS.CTICK only by CSTEP and RESET (R43, R46, R47, R48). -/
def Obligations.ControlRegistersChangeOnlyByTheirCommands : Prop :=
  ∀ (i : Instr) (s t : State), exec i s = .next t →
    match i with
    | .reset => t.fs = s.fs
    | .setk k _ => (∀ j : KReg, j ≠ k → t.k[j] = s.k[j]) ∧ t.fs = s.fs ∧ t.fsf = s.fsf ∧ t.ctrlDiv = s.ctrlDiv
        ∧ t.ctrlCnt = s.ctrlCnt ∧ t.status.ctick = s.status.ctick
    | .setfs _ => t.k = s.k ∧ t.status.ctick = s.status.ctick
    | .cstep _ => t.k = s.k ∧ t.fs = s.fs ∧ t.fsf = s.fsf ∧ t.ctrlDiv = s.ctrlDiv
    | _ => t.k = s.k ∧ t.fs = s.fs ∧ t.fsf = s.fsf ∧ t.ctrlDiv = s.ctrlDiv ∧ t.ctrlCnt = s.ctrlCnt
        ∧ t.status.ctick = s.status.ctick

/-- ILL is sticky: whatever input the next step takes (a legal command, a word that fails a decode check, a UI store, a
drain, or none), it stays set unless the step runs RESET, and ERRINFO changes only in a step that leaves ILL set or that
runs RESET (R43, R44, R274). -/
def Obligations.IllegalFlagIsStickyUntilReset : Prop :=
  ∀ s t : State, step s = .next t →
    (∀ (c : CommandWord) (rest : List HostEvent), s.input = .command c :: rest → decode c ≠ .ok .reset) →
    (s.status.ill = true → t.status.ill = true) ∧ (t.errinfo ≠ s.errinfo → t.status.ill = true)

/-- A sample register that is no destination of a command keeps its value (R41, R103). -/
def Obligations.SampleRegistersChangeOnlyAsDestinations : Prop :=
  ∀ (i : Instr) (s t : State) (r : Reg), exec i s = .next t → r ∉ destinations i → t.x[r] = s.x[r]

/-- DL.RD, DL.RDI, RDREG, LM.RD, ENV.RDF and TLOOKUP change no state but their destination register (R87). -/
def Obligations.ReadsChangeOnlyTheirDestination : Prop :=
  ∀ (i : Instr) (s t : State), i.wellFormed = true → exec i s = .next t →
    match i with
    | .dlRd rd _ _ => t = { s with x := s.x.set rd t.x[rd], pc := s.pc + 1 }
    | .dlRdi rd _ _ => t = { s with x := s.x.set rd t.x[rd], pc := s.pc + 1 }
    | .rdreg rd _ => t = { s with x := s.x.set rd t.x[rd], pc := s.pc + 1 }
    | .lmRd rd _ _ => t = { s with x := s.x.set rd t.x[rd], pc := s.pc + 1 }
    | .envRdf rd _ => t = { s with x := s.x.set rd t.x[rd], pc := s.pc + 1 }
    | .tlookup rd _ => t = { s with x := s.x.set rd t.x[rd], pc := s.pc + 1 }
    | _ => True

/-- Delay memory: each command leaves every cell as it was but for the cells it stores to, each at the index its offset
names; DL.CLR and RV.RST act on one line, RESET on all (R80, R82). -/
def Obligations.DelayCellsChangeOnlyWhereStored : Prop :=
  ∀ (i : Instr) (s t : State) (d : Fin Config.NDL) (a : Nat), exec i s = .next t →
    match i with
    | .reset => memRead t d a = 0#32
    | .dlWr u _ off => (u = unitField d → a ≠ dlIndex s d off.toNat) → memRead t d a = memRead s d a
    | .dlAp _ u _ inOff _ => (u = unitField d → a ≠ dlIndex s d inOff.toNat) → memRead t d a = memRead s d a
    | .dlClr u => u ≠ unitField d → memRead t d a = memRead s d a
    | .rvProc _ _ _ =>
      (d = 0 → ∀ r : Fin 7, a ≠ dlIndex (rotate s 0) 0 (regionStart s r)) → memRead t d a = memRead s d a
    | .rvRst => d ≠ 0 → memRead t d a = memRead s d a
    | _ => memRead t d a = memRead s d a

/-- Coefficients and histories are kept apart (R55, R160). The configuring commands keep every filter history, BQ.CFG where
the type is unchanged. Every other command but RESET, SETFS and WRREG keeps every parameter and coefficient of every
filter and meter. -/
def Obligations.CoefficientsAndHistoriesAreKeptApart : Prop :=
  ∀ (i : Instr) (s t : State), exec i s = .next t →
    let histories := (∀ u : Fin Config.NOP, t.op[u].z1 = s.op[u].z1)
      ∧ (∀ u : Fin Config.NBQ, t.bq[u].z1 = s.bq[u].z1 ∧ t.bq[u].z2 = s.bq[u].z2)
    let coefficients := (∀ u : Fin Config.NOP, t.op[u].fc = s.op[u].fc ∧ t.op[u].a0 = s.op[u].a0)
      ∧ (∀ u : Fin Config.NBQ, t.bq[u].ty = s.bq[u].ty ∧ t.bq[u].fc = s.bq[u].fc ∧ t.bq[u].q = s.bq[u].q
        ∧ t.bq[u].gain = s.bq[u].gain ∧ t.bq[u].coef = s.bq[u].coef)
      ∧ (∀ m : Fin Config.NLM, t.lm[m].fcs = s.lm[m].fcs ∧ t.lm[m].coef = s.lm[m].coef
        ∧ t.lm[m].holdCfg = s.lm[m].holdCfg ∧ t.lm[m].presel = s.lm[m].presel)
    match i with
    | .reset => True
    | .wrreg _ _ => True
    | .setfs _ => histories
    | .opSet _ _ => histories
    | .bqCfg u ty _ _ _ => (∀ v : Fin Config.NBQ, u = unitField v → ty = s.bq[v].ty) → histories
    | .rvChar _ => histories
    | .lmCfg _ _ _ _ => histories
    | _ => coefficients

/-! ## Numerics (spec/00_scope.md) -/

/-- `fadd`, `fsub`, `fmul` and `fdiv` of finite operands (a divisor not zero) give the binary32 value nearest the exact
result, ties to even, an infinity on overflow; an exact zero sum is +0.0 unless both terms are -0.0, and the sign of a
product or quotient is that of its operands' signs. An infinite operand gives the infinity or zero of IEEE 754, a non-zero
number over zero an infinity. A NaN operand, ∞ - ∞, 0·∞, 0/0 and ∞/∞ give a quiet NaN (R23, R25). -/
def Obligations.BasicOperationsAreCorrectlyRounded : Prop :=
  ∀ a b : F32,
    let neg := fsign a != fsign b
    let inf : F32 := if neg = true then 0xFF800000#32 else 0x7F800000#32
    let zero : F32 := if neg = true then 0x80000000#32 else 0x00000000#32
    let quiet := fun v : F32 => 0x7FC00000 ≤ v.toNat % 2 ^ 31
    (isFinite a = true → isFinite b = true →
      IsNearest (fadd a b) (fvalue a + fvalue b) 1
        ∧ IsNearest (fsub a b) (fvalue a - fvalue b) 1
        ∧ IsNearest (fmul a b) (fvalue a * fvalue b) (2 ^ 149)
        ∧ (isZero b = false →
          IsNearest (fdiv a b) ((if fsign b then -fvalue a else fvalue a) * 2 ^ 149) (funits b)
            ∧ fsign (fdiv a b) = neg)
        ∧ fsign (fmul a b) = neg
        ∧ (fvalue a + fvalue b = 0 → fadd a b = if fsign a && fsign b then 0x80000000#32 else 0x00000000#32)
        ∧ (fvalue a = fvalue b → fsub a b = if fsign a && !fsign b then 0x80000000#32 else 0x00000000#32)
        ∧ (isZero b = true → isZero a = false → fdiv a b = inf))
    ∧ (isInf a = true → isFinite b = true →
      fadd a b = a ∧ fadd b a = a ∧ fsub a b = a ∧ fsub b a = fneg a ∧ fdiv a b = inf ∧ fdiv b a = zero
        ∧ (isZero b = false → fmul a b = inf ∧ fmul b a = inf)
        ∧ (isZero b = true → quiet (fmul a b) ∧ quiet (fmul b a)))
    ∧ (isInf a = true → isInf b = true → fmul a b = inf ∧ quiet (fdiv a b)
      ∧ (neg = true → quiet (fadd a b) ∧ fsub a b = a) ∧ (neg = false → fadd a b = a ∧ quiet (fsub a b)))
    ∧ (isZero a = true → isZero b = true → quiet (fdiv a b))
    ∧ (isNaN a = true ∨ isNaN b = true →
      quiet (fadd a b) ∧ quiet (fsub a b) ∧ quiet (fmul a b) ∧ quiet (fdiv a b))

/-- `fsqrt` of a positive finite number gives the binary32 value nearest the square root, ties to even: no finite `c` is
nearer. (In units of 2^-149 the root of `n` units squares to `n·2^149`; `r` is at least as near as a smaller `c` exactly
when `(c + r)^2` is at most four times that square.) The root of a zero is that zero and of +∞ is +∞; a negative number
other than zero and a NaN give a quiet NaN (R23, R25). -/
def Obligations.SquareRootIsCorrectlyRounded : Prop :=
  ∀ a : F32,
    (isFinite a = true → isZero a = false → fsign a = false →
      isFinite (fsqrt a) = true ∧ fsign (fsqrt a) = false
        ∧ ∀ c : F32, isFinite c = true → fsign c = false →
          let square := funits a * 2 ^ 149
          let sum := funits c + funits (fsqrt a)
          (funits c < funits (fsqrt a) → sum * sum ≤ 4 * square)
            ∧ (funits (fsqrt a) < funits c → 4 * square ≤ sum * sum)
            ∧ (funits c ≠ funits (fsqrt a) → sum * sum = 4 * square → fmag (fsqrt a) % 2 = 0))
    ∧ (isZero a = true → fsqrt a = a) ∧ fsqrt 0x7F800000#32 = 0x7F800000#32
    ∧ (isNaN a = true ∨ (fsign a = true ∧ isZero a = false) → 0x7FC00000 ≤ (fsqrt a).toNat % 2 ^ 31)

/-- `clampf` for ordered bounds that are no NaN, by its definition; and so the result is in the range, a value inside is
returned bit for bit (minus zero over a lower bound of plus zero included), a NaN gives the lower bound, as does minus
infinity, and plus infinity gives the upper (R27). -/
def Obligations.ClampBoundsEveryPattern : Prop :=
  ∀ v lo hi : F32, fle lo hi = true →
    clampf v lo hi = (if fge v lo = true then (if fle v hi = true then v else hi) else lo)
      ∧ inRange lo hi (clampf v lo hi) ∧ (inRange lo hi v → clampf v lo hi = v) ∧ (isNaN v = true → clampf v lo hi = lo)
      ∧ clampf 0xFF800000#32 lo hi = lo ∧ clampf 0x7F800000#32 lo hi = hi
      ∧ clamp01 v = clampf v 0x00000000#32 0x3F800000#32 ∧ clamp01 0x80000000#32 = 0x80000000#32

/-- The NUM functions have the named properties of R30, each clause with its values and its monotonicity, the tangent's at
every configuration. (Finiteness of the logarithm is claimed of finite arguments only: notes/assumptions/3.md.) -/
def Obligations.TranscendentalsHaveTheirNamedProperties : Prop :=
  (numExp 0x00000000#32 = fOne ∧ numExp 0x80000000#32 = fOne
      ∧ (∀ x, fle x fZero = true → inRange fZero fOne (numExp x))
      ∧ (∀ x y, fle x y = true → fle (numExp x) (numExp y) = true))
    ∧ (∀ cfg : Params, numTan cfg fZero = fZero
      ∧ (∀ x, fle fZero x = true → fle x (fmul 0x40490FDB#32 cfg.fcrMax) = true →
        isFinite (numTan cfg x) = true ∧ fle fZero (numTan cfg x) = true
          ∧ (fle fTwoPowM16 x = true → fle fTwoPowM17 (numTan cfg x) = true)
          ∧ (∀ y, fle x y = true → fle y (fmul 0x40490FDB#32 cfg.fcrMax) = true →
            fle (numTan cfg x) (numTan cfg y) = true)))
    ∧ (numLog10 fOne = fZero
      ∧ (∀ x, fle fTwoPowM30 x = true → isFinite x = true → isFinite (numLog10 x) = true)
      ∧ (∀ x y, flt fZero x = true → fle x y = true → fle (numLog10 x) (numLog10 y) = true))
    ∧ (numPow10 fZero = fOne
      ∧ (∀ x, fle fZero x = true → fle x fTwo = true → inRange fOne f100 (numPow10 x))
      ∧ (∀ x y, fle fZero x = true → fle x y = true → fle y fTwo = true → fle (numPow10 x) (numPow10 y) = true))
    ∧ (∀ x, isNaN x = true → isNaN (numExp x) = true ∧ (∀ cfg : Params, isNaN (numTan cfg x) = true)
      ∧ isNaN (numLog10 x) = true ∧ isNaN (numPow10 x) = true)

/-! ## Reset (spec/10_state.md R74, spec/70_reset_and_hazards.md) -/

/-- The values of the power-on state by the table of R74 at FS_DEFAULT: those that it gives outright, and each derived
register as its derivation rule makes it of the tabled parameters at that rate (R162, R166, R221, R244, R245). -/
def Obligations.PowerOnStateHasTheTabledValues : Prop :=
  let s := State.reset
  (∀ r : Reg, s.x[r] = 0#32) ∧ s.status.ill = false ∧ s.status.ctick = false ∧ s.errinfo = 0#32 ∧ s.fs = 48000#32
    ∧ s.fsf = 0x473B8000#32 ∧ s.ctrlDiv = 48#32 ∧ s.ctrlCnt = 0#32 ∧ (∀ k : KReg, s.k[k] = 0x00000000#32)
    ∧ (∀ (d : Fin Config.NDL) (a : Nat), memRead s d a = 0x00000000#32 ∧ s.dl[d].dp = 0#32)
    ∧ ((List.finRange Config.NOP).map fun u => s.op[u].fc) = [0x43960000#32, 0x457A0000#32, 0x45BB8000#32,
        0x45BB8000#32, 0x453B8000#32, 0x447A0000#32, 0x447A0000#32, 0x447A0000#32]
    ∧ (∀ u : Fin Config.NOP, s.op[u].a0 = onePoleA0 Config.default s.op[u].fc 0x473B8000#32 ∧ s.op[u].z1 = fZero)
    ∧ (∀ u : Fin Config.NBQ, s.bq[u] = { ty := .lpf, fc := 0x447A0000#32, q := 0x3F3504F3#32, gain := fZero
                                         coef := biquadCoeffs Config.default .lpf 0x447A0000#32 0x3F3504F3#32 fZero
                                           0x473B8000#32
                                         z1 := fZero, z2 := fZero })
    ∧ (∀ e : Fin Config.NENV, s.env[e] = { mode := .adsr, st := .idle, level := 0#32, astep := 65535#16
                                           dstep := 65535#16, rstep := 65535#16, sus := 65535#16, gate := false })
    ∧ (∀ m : Fin Config.NLM, s.lm[m] = { fcs := 0x41200000#32
                                         coef := meterCoef Config.default 0x41200000#32 0x473B8000#32
                                         holdCfg := 48000#32, presel := none, level := fZero, peak := fZero
                                         hold := 0#32 })
    ∧ s.rv.preset = 0 ∧ s.rv.tone = fHalf ∧ s.rv.size = fHalf ∧ s.rv.klow = fZero ∧ s.rv.khigh = fZero
    ∧ s.rv.kpass = fOne ∧ s.rv.krt = 0x3F100000#32 ∧ s.rv.kap = 0x3F000000#32 ∧ s.rv.kcomb = fZero
    ∧ s.rv.kfb = fZero ∧ s.rv.kdry = fOne ∧ s.rv.krev = fZero ∧ s.rv.kecho = fZero
    ∧ s.rv.etimereq = 0x02EE0000#32 ∧ s.rv.etime = 0x02EE0000#32 ∧ s.rv.yl = fZero ∧ s.rv.yr = fZero
    ∧ s.rv.s.toList = [0#32, 152#32, 266#32, 650#32, 932#32, 3592#32, 6592#32, 30593#32]
    ∧ (∀ p : Fin Config.NP, s.p[p] = 0#32 ∧ s.pq[p] = []) ∧ s.pc = 0

/-- RESET puts the core in ResetState at the FS it had, keeping FS, the mailbox and its queues; at FS_DEFAULT everything
else is as after power-on; a second RESET changes nothing more (R121, R308). -/
def Obligations.ResetKeepsOnlyRateAndMailbox : Prop :=
  ∀ s : State,
    exec .reset s = .next (advance (resetState s.fs.toNat s))
      ∧ (resetState s.fs.toNat s).fs = s.fs
      ∧ (s.fs = 48000#32 →
        resetState s.fs.toNat s = { State.reset with p := s.p, pq := s.pq, pc := s.pc, input := s.input })
      ∧ (∀ t, exec .reset s = .next t → exec .reset t = .next { t with pc := t.pc + 1 })

/-! ## System commands (spec/40_system.md) -/

/-- NOP does nothing; LDI and MOV write one register, bit for bit (R120, R125, R129). -/
def Obligations.NopLdiAndMovMoveBitPatterns : Prop :=
  ∀ (s : State) (rd rs1 : Reg) (imm : Word),
    exec .nop s = .next { s with pc := s.pc + 1 }
      ∧ exec (.ldi rd imm) s = .next { s with x := s.x.set rd imm, pc := s.pc + 1 }
      ∧ exec (.mov rd rs1) s = .next { s with x := s.x.set rd s.x[rs1], pc := s.pc + 1 }

/-- SETFS clamps the rate, derives every rate-dependent register, resets the counter only if it is not below the new
divider, and changes nothing else; a second SETFS with the same rate changes nothing but pc (R122, R123). -/
def Obligations.SetfsDerivesEveryRateDependentRegister : Prop :=
  (∀ (s : State) (hz : Word),
    let fs := min (max hz.toNat 8000) 96000
    exec (.setfs hz) s = .next { s with
      fs := BitVec.ofNat 32 fs
      fsf := u2f fs
      ctrlDiv := BitVec.ofNat 32 (max 1 (fs / 1000))
      ctrlCnt := if max 1 (fs / 1000) ≤ s.ctrlCnt.toNat then 0#32 else s.ctrlCnt
      op := Vector.ofFn fun u => { s.op[u] with a0 := onePoleA0 Config.default s.op[u].fc (u2f fs) }
      bq := Vector.ofFn fun u => { s.bq[u] with
        coef := biquadCoeffs Config.default s.bq[u].ty s.bq[u].fc s.bq[u].q s.bq[u].gain (u2f fs) }
      lm := Vector.ofFn fun m => { s.lm[m] with coef := meterCoef Config.default s.lm[m].fcs (u2f fs) }
      rv := { s.rv with
        s := layoutOf Config.default s.rv.preset fs, etime := echoTimeOf Config.default s.rv.etimereq fs }
      pc := s.pc + 1 })
  ∧ ∀ (s t : State) (hz : Word), exec (.setfs hz) s = .next t → exec (.setfs hz) t = .next { t with pc := t.pc + 1 }

/-- CSTEP counts up, answers 1 and wraps when the count reaches CTRL_DIV, else answers 0, and shows the answer in CTICK
(R124). -/
def Obligations.CstepCountsAndTicks : Prop :=
  ∀ (s : State) (rd : Reg),
    exec (.cstep rd) s = .next
      (if s.ctrlDiv.toNat ≤ s.ctrlCnt.toNat + 1 then
        { s with ctrlCnt := 0#32, x := s.x.set rd 1#32, status := { s.status with ctick := true }, pc := s.pc + 1 }
      else
        { s with
          ctrlCnt := s.ctrlCnt + 1#32, x := s.x.set rd 0#32, status := { s.status with ctick := false }, pc := s.pc + 1 })

/-- From a count of 0, of n CSTEPs in a row the last answers 1 exactly when CTRL_DIV divides n, and the count is the rest:
control ticks come every CTRL_DIV samples (R124, R293). -/
def Obligations.ControlTicksComeEveryDividerSamples : Prop :=
  ∀ (s : State) (rd : Reg) (n : Nat), s.RateInv → s.ctrlCnt = 0#32 → 0 < n →
    ∃ t, execAll (List.replicate n (.cstep rd)) s = .next t
      ∧ t.x[rd] = (if n % s.ctrlDiv.toNat = 0 then 1#32 else 0#32)
      ∧ t.ctrlCnt.toNat = n % s.ctrlDiv.toNat
      ∧ t.status.ctick = decide (n % s.ctrlDiv.toNat = 0)

/-- RDREG at every mapped address reads the register that the table of R72 names there, zero-extended, and writes only its
destination (R72, R126): STATUS with ILL in bit 0, CTICK in bit 1 and zeros above (R43), TYPE, PRESEL, MODE and ST as
their codes (R53, R56, R61, R62). -/
def Obligations.RegisterMapReadsTheNamedRegister : Prop :=
  ∀ (s : State) (rd : Reg),
    let reads := fun (block unit field : Nat) (v : Word) =>
      exec (.rdreg rd (regAddr block unit field)) s = .next { s with x := s.x.set rd v, pc := s.pc + 1 }
    reads 0 0 0 0x44565350#32 ∧ reads 0 0 2 s.errinfo ∧ reads 0 0 3 s.fs
      ∧ reads 0 0 1 ((if s.status.ill then 1#32 else 0#32) + (if s.status.ctick then 2#32 else 0#32))
      ∧ reads 0 0 4 s.fsf ∧ reads 0 0 5 s.ctrlDiv ∧ reads 0 0 6 s.ctrlCnt
      ∧ (∀ d : Fin Config.NDL, reads 1 d 0 s.dl[d].dp ∧ reads 1 d 1 (if d = 0 then 17#32 else 16#32))
      ∧ (∀ u : Fin Config.NOP, reads 2 u 0 s.op[u].fc ∧ reads 2 u 1 s.op[u].a0 ∧ reads 2 u 2 s.op[u].z1)
      ∧ (∀ u : Fin Config.NBQ, reads 3 u 0 (match s.bq[u].ty with
            | .lpf => 0#32 | .bpf => 1#32 | .hpf => 2#32 | .notch => 3#32 | .peak => 4#32 | .lowshelf => 5#32
            | .highshelf => 6#32)
        ∧ reads 3 u 1 s.bq[u].fc
        ∧ reads 3 u 2 s.bq[u].q ∧ reads 3 u 3 s.bq[u].gain ∧ reads 3 u 4 s.bq[u].coef.a0
        ∧ reads 3 u 5 s.bq[u].coef.a1 ∧ reads 3 u 6 s.bq[u].coef.a2 ∧ reads 3 u 7 s.bq[u].coef.b1
        ∧ reads 3 u 8 s.bq[u].coef.b2 ∧ reads 3 u 9 s.bq[u].z1 ∧ reads 3 u 10 s.bq[u].z2)
      ∧ (∀ e : Fin Config.NENV, reads 4 e 0 (match s.env[e].mode with
            | .adsr => 0#32 | .ar => 1#32 | .lfo => 2#32)
        ∧ reads 4 e 1 (match s.env[e].st with
            | .idle => 0#32 | .attack => 1#32 | .decay => 2#32 | .sustain => 3#32 | .release => 4#32)
        ∧ reads 4 e 2 s.env[e].level
        ∧ reads 4 e 3 (s.env[e].astep.setWidth 32) ∧ reads 4 e 4 (s.env[e].dstep.setWidth 32)
        ∧ reads 4 e 5 (s.env[e].rstep.setWidth 32) ∧ reads 4 e 6 (s.env[e].sus.setWidth 32)
        ∧ reads 4 e 7 (if s.env[e].gate then 1#32 else 0#32))
      ∧ (∀ m : Fin Config.NLM, reads 5 m 0 s.lm[m].fcs ∧ reads 5 m 1 s.lm[m].coef ∧ reads 5 m 2 s.lm[m].holdCfg
        ∧ reads 5 m 3 (match s.lm[m].presel with
            | none => 0#32
            | some u => BitVec.ofNat 32 (u.val + 1))
        ∧ reads 5 m 4 s.lm[m].level
        ∧ reads 5 m 5 s.lm[m].peak ∧ reads 5 m 6 s.lm[m].hold)
      ∧ reads 6 0 0 (BitVec.ofNat 32 s.rv.preset.val) ∧ reads 6 0 1 s.rv.tone ∧ reads 6 0 2 s.rv.size
      ∧ reads 6 0 3 s.rv.klow ∧ reads 6 0 4 s.rv.khigh ∧ reads 6 0 5 s.rv.kpass ∧ reads 6 0 6 s.rv.krt
      ∧ reads 6 0 7 s.rv.kap ∧ reads 6 0 8 s.rv.kcomb ∧ reads 6 0 9 s.rv.kfb ∧ reads 6 0 10 s.rv.kdry
      ∧ reads 6 0 11 s.rv.krev ∧ reads 6 0 12 s.rv.kecho ∧ reads 6 0 13 s.rv.etimereq ∧ reads 6 0 14 s.rv.etime
      ∧ (∀ r : Fin 8, reads 6 1 r s.rv.s[r]) ∧ reads 6 1 8 s.rv.yl ∧ reads 6 1 9 s.rv.yr
      ∧ (∀ k : KReg, reads 7 0 k s.k[k]) ∧ (∀ p : Fin Config.NP, reads 8 (p.val / 16) (p.val % 16) s.p[p])
      ∧ (∀ i : Fin 128, reads 9 (i.val / 16) (i.val % 16) (BitVec.ofNat 32 (Config.timeTable.getD i.val 0)))

/-- WRREG at every writable address stores the source, legalised by R73, in the register named there and nowhere else; a
value above 4 to an envelope ST register is an illegal command (R73, R127). -/
def Obligations.RegisterMapWritesTheLegalisedValue : Prop :=
  ∀ (s : State) (rs1 : Reg),
    let v := s.x[rs1]
    let writes := fun (block unit field : Nat) (t : State) =>
      exec (.wrreg rs1 (regAddr block unit field)) s = .next { t with pc := s.pc + 1 }
    (∀ d : Fin Config.NDL, writes 1 d 0
        { s with dl := s.dl.set d { s.dl[d] with dp := BitVec.ofNat 32 (v.toNat % Config.cap d) } })
      ∧ (∀ u : Fin Config.NOP, writes 2 u 1 { s with op := s.op.set u { s.op[u] with a0 := v } }
        ∧ writes 2 u 2 { s with op := s.op.set u { s.op[u] with z1 := v } })
      ∧ (∀ u : Fin Config.NBQ,
        writes 3 u 4 { s with bq := s.bq.set u { s.bq[u] with coef := { s.bq[u].coef with a0 := v } } }
        ∧ writes 3 u 5 { s with bq := s.bq.set u { s.bq[u] with coef := { s.bq[u].coef with a1 := v } } }
        ∧ writes 3 u 6 { s with bq := s.bq.set u { s.bq[u] with coef := { s.bq[u].coef with a2 := v } } }
        ∧ writes 3 u 7 { s with bq := s.bq.set u { s.bq[u] with coef := { s.bq[u].coef with b1 := v } } }
        ∧ writes 3 u 8 { s with bq := s.bq.set u { s.bq[u] with coef := { s.bq[u].coef with b2 := v } } }
        ∧ writes 3 u 9 { s with bq := s.bq.set u { s.bq[u] with z1 := v } }
        ∧ writes 3 u 10 { s with bq := s.bq.set u { s.bq[u] with z2 := v } })
      ∧ (∀ e : Fin Config.NENV,
        (∀ st : EnvState, v = (match st with
            | .idle => 0#32 | .attack => 1#32 | .decay => 2#32 | .sustain => 3#32 | .release => 4#32) →
          writes 4 e 1 { s with env := s.env.set e { s.env[e] with st := st } })
        ∧ (4 < v.toNat → exec (.wrreg rs1 (regAddr 4 e 1)) s = .next { s with
          status := { s.status with ill := true }
          errinfo := (encode (.wrreg rs1 (regAddr 4 e 1))).extractLsb' 32 32, pc := s.pc + 1 })
        ∧ writes 4 e 2 { s with env := s.env.set e { s.env[e] with level := BitVec.ofNat 32 (min v.toNat 65535) } }
        ∧ writes 4 e 3 { s with
          env := s.env.set e { s.env[e] with astep := BitVec.ofNat 16 (min (max v.toNat 1) 65535) } }
        ∧ writes 4 e 4 { s with
          env := s.env.set e { s.env[e] with dstep := BitVec.ofNat 16 (min (max v.toNat 1) 65535) } }
        ∧ writes 4 e 5 { s with
          env := s.env.set e { s.env[e] with rstep := BitVec.ofNat 16 (min (max v.toNat 1) 65535) } }
        ∧ writes 4 e 6 { s with env := s.env.set e { s.env[e] with sus := BitVec.ofNat 16 (min v.toNat 65535) } }
        ∧ writes 4 e 7 { s with env := s.env.set e { s.env[e] with gate := decide (v.toNat % 2 = 1) } })
      ∧ (∀ m : Fin Config.NLM, writes 5 m 1 { s with lm := s.lm.set m { s.lm[m] with coef := v } }
        ∧ writes 5 m 4 { s with lm := s.lm.set m { s.lm[m] with level := v } }
        ∧ writes 5 m 5 { s with lm := s.lm.set m { s.lm[m] with peak := v } }
        ∧ writes 5 m 6 { s with lm := s.lm.set m { s.lm[m] with hold := v } })
      ∧ writes 6 1 8 { s with rv := { s.rv with yl := v } } ∧ writes 6 1 9 { s with rv := { s.rv with yr := v } }

/-- SETK stores its source clamped to [-KMAX, KMAX]: bit for bit inside, the near bound outside, -KMAX for a NaN; so every
stored coefficient has magnitude at most KMAX (R128). -/
def Obligations.SetkStoresTheClampedCoefficient : Prop :=
  ∀ (s : State) (k : KReg) (rs1 : Reg), ∃ v : F32,
    exec (.setk k rs1) s = .next { s with k := s.k.set k v, pc := s.pc + 1 }
      ∧ inRange 0xBF7C0000#32 0x3F7C0000#32 v
      ∧ (inRange 0xBF7C0000#32 0x3F7C0000#32 s.x[rs1] → v = s.x[rs1])
      ∧ (flt 0x3F7C0000#32 s.x[rs1] = true → v = 0x3F7C0000#32)
      ∧ (flt s.x[rs1] 0xBF7C0000#32 = true → v = 0xBF7C0000#32)
      ∧ (isNaN s.x[rs1] = true → v = 0xBF7C0000#32)

/-! ## Delay lines (spec/41_delayline.md, spec/20_memory.md) -/

/-- DL.ROT moves the cursor down by one modulo the capacity and touches no cell and no other line (R142); so offsets age
by one per rotation: after k DL.ROTs the cell at `off` is at `off + k`, and after CAP of them at `off` again (R143). -/
def Obligations.OffsetsAgeByOnePerRotation : Prop :=
  ∀ (s : State) (d : Fin Config.NDL),
    (∃ dp : Word, dp.toNat = (s.dl[d].dp.toNat + Config.cap d - 1) % Config.cap d
      ∧ exec (.dlRot (unitField d)) s = .next { s with dl := s.dl.set d { s.dl[d] with dp := dp }, pc := s.pc + 1 })
    ∧ ∀ off k : Nat, ∃ t, execAll (List.replicate k (.dlRot (unitField d))) s = .next t
      ∧ dlIndex t d (off + k) = dlIndex s d off
      ∧ readOffset t d (off + k) = readOffset s d off
      ∧ (k = Config.cap d → dlIndex t d off = dlIndex s d off)

/-- DL.WR stores its source bit for bit at the physical cell of its offset, modulo the capacity; every other cell of every
line, and everything else, is as before (R144). The cell reads back in a line whose buffer is in canonical form, which
EveryStepKeepsTheInvariant says it always is. -/
def Obligations.DelayWriteStoresOneCell : Prop :=
  ∀ (s : State) (d : Fin Config.NDL) (rs1 : Reg) (off : Word), ∃ t,
    exec (.dlWr (unitField d) rs1 off) s = .next t
      ∧ { t with dl := s.dl } = { s with pc := s.pc + 1 }
      ∧ (∀ e : Fin Config.NDL, t.dl[e].dp = s.dl[e].dp)
      ∧ (Memory.wf (Config.cap d) s.dl[d].buf = true →
        memRead t d ((s.dl[d].dp.toNat + off.toNat) % Config.cap d) = s.x[rs1])
      ∧ (∀ (e : Fin Config.NDL) (a : Nat), ¬(e = d ∧ a = (s.dl[d].dp.toNat + off.toNat) % Config.cap d) →
        memRead t e a = memRead s e a)

/-- DL.RD reads the physical cell of its offset, bit for bit; DL.RDI interpolates between the cells of the integer part and
the next, each wrapped on its own, with the 12-bit fraction (R145, R146). -/
def Obligations.DelayReadsReturnTheirCells : Prop :=
  ∀ (s : State) (rd : Reg) (d : Fin Config.NDL) (imm : Word),
    let cell := fun off : Nat => memRead s d ((s.dl[d].dp.toNat + off) % Config.cap d)
    exec (.dlRd rd (unitField d) imm) s = .next { s with x := s.x.set rd (cell imm.toNat), pc := s.pc + 1 }
      ∧ exec (.dlRdi rd (unitField d) imm) s = .next { s with
        x := s.x.set rd
          (fadd (cell (imm.toNat / 4096))
            (fmul (fsub (cell (imm.toNat / 4096 + 1)) (cell (imm.toNat / 4096)))
              (fmul (u2f (imm.toNat % 4096)) 0x39800000#32)))
        pc := s.pc + 1 }

/-- DL.AP reads the out cell, stores `acc - tap·g` in the in cell and leaves `w·g + tap` in its register; every other cell,
and everything else, is as before (R147). -/
def Obligations.AllpassStoresThenReturns : Prop :=
  ∀ (s : State) (rd : Reg) (d : Fin Config.NDL) (k : KReg) (inOff outOff : BitVec 16),
    let tap := memRead s d (dlIndex s d outOff.toNat)
    let w := fsub s.x[rd] (fmul tap s.k[k])
    ∃ t, exec (.dlAp rd (unitField d) k inOff outOff) s = .next t
      ∧ { t with dl := s.dl } = { s with x := s.x.set rd (fadd (fmul w s.k[k]) tap), pc := s.pc + 1 }
      ∧ (∀ e : Fin Config.NDL, t.dl[e].dp = s.dl[e].dp)
      ∧ (Memory.wf (Config.cap d) s.dl[d].buf = true → memRead t d (dlIndex s d inOff.toNat) = w)
      ∧ (∀ (e : Fin Config.NDL) (a : Nat), ¬(e = d ∧ a = dlIndex s d inOff.toNat) → memRead t e a = memRead s e a)

/-- DL.CLR makes every cell of its line zero and its cursor 0, and leaves the other line and everything else (R149). -/
def Obligations.ClearZeroesOneLine : Prop :=
  ∀ (s : State) (d : Fin Config.NDL), ∃ t,
    exec (.dlClr (unitField d)) s = .next t
      ∧ { t with dl := s.dl } = { s with pc := s.pc + 1 }
      ∧ (∀ a : Nat, memRead t d a = 0x00000000#32) ∧ t.dl[d].dp = 0#32
      ∧ (∀ e : Fin Config.NDL, e ≠ d → t.dl[e] = s.dl[e])

/-- The full-cycle round trip: a value written at an offset is read k rotations later at that offset plus k, for every k,
and after exactly CAP rotations at the offset itself (R99). -/
def Obligations.WrittenValueReturnsAfterRotations : Prop :=
  ∀ (s : State) (d : Fin Config.NDL) (rs1 rd : Reg) (off : Word) (k : Nat), s.LineInv → ∃ t,
    execAll (.dlWr (unitField d) rs1 off :: List.replicate k (.dlRot (unitField d))) s = .next t
      ∧ exec (.dlRd rd (unitField d) (off + BitVec.ofNat 32 k)) t
        = .next { t with x := t.x.set rd s.x[rs1], pc := t.pc + 1 }
      ∧ (k = Config.cap d →
        exec (.dlRd rd (unitField d) off) t = .next { t with x := t.x.set rd s.x[rs1], pc := t.pc + 1 })

/-! ## Filters (spec/42_filters.md) -/

/-- OP.SET stores the cutoff as given and derives A0, keeping the history; OP.LP answers the new history, OP.HP what it
leaves of the input, OP.RST clears the history; each changes one unit and, OP.LP and OP.HP, one register (R161 to R164,
R169). -/
def Obligations.OnePoleCommandsActOnOneUnit : Prop :=
  ∀ (s : State) (u : Fin Config.NOP) (rd rs1 : Reg),
    let v := s.x[rs1]
    let z := fadd s.op[u].z1 (fmul (fsub v s.op[u].z1) s.op[u].a0)
    exec (.opSet (unitField u) rs1) s = .next { s with
        op := s.op.set u
          { fc := v
            a0 := fsub fOne (numExp (fneg (fdiv
              (fmul 0x40C90FDB#32 (clampf v fZero (fmul s.fsf 0x3EF00000#32))) s.fsf)))
            z1 := s.op[u].z1 }
        pc := s.pc + 1 }
      ∧ exec (.opLp rd rs1 (unitField u)) s = .next { s with
        op := s.op.set u { s.op[u] with z1 := z }, x := s.x.set rd z, pc := s.pc + 1 }
      ∧ exec (.opHp rd rs1 (unitField u)) s = .next { s with
        op := s.op.set u { s.op[u] with z1 := z }, x := s.x.set rd (fsub v z), pc := s.pc + 1 }
      ∧ exec (.opRst (unitField u)) s = .next { s with
        op := s.op.set u { s.op[u] with z1 := 0x00000000#32 }, pc := s.pc + 1 }

/-- At every legal sample rate the derived A0 is in [0, 1] for every cutoff pattern, and is +0.0 for a cutoff that is zero,
negative or a NaN (R162). -/
def Obligations.OnePoleCoefficientIsInTheUnitInterval : Prop :=
  ∀ (fc : F32) (fs : Nat), 8000 ≤ fs → fs ≤ 96000 →
    let a0 := onePoleA0 Config.default fc (u2f fs)
    inRange fZero fOne a0 ∧ (flt fZero fc = false → a0 = 0x00000000#32)

/-- Once the history of a one-pole unit equals a constant finite input it stays there: a finite input c other than -0.0 is
an exact fixed point of the lowpass for every A0 in [0, 1], and the highpass then answers +0.0 (R171). -/
def Obligations.ConstantInputIsALowpassFixedPoint : Prop :=
  ∀ (s : State) (u : Fin Config.NOP) (rd rs1 : Reg),
    isFinite s.x[rs1] = true → s.x[rs1] ≠ 0x80000000#32 → s.op[u].z1 = s.x[rs1] → inRange fZero fOne s.op[u].a0 →
    exec (.opLp rd rs1 (unitField u)) s = .next { s with x := s.x.set rd s.x[rs1], pc := s.pc + 1 }
      ∧ exec (.opHp rd rs1 (unitField u)) s = .next { s with x := s.x.set rd 0x00000000#32, pc := s.pc + 1 }

/-- BQ.CFG stores the type and the three parameters as given, derives the five coefficients, and clears the history
exactly when the type changes; BQ.PROC runs the recurrence of R168 and writes one register; BQ.RST clears both histories;
each changes one unit (R165, R166, R168, R170). -/
def Obligations.BiquadCommandsActOnOneUnit : Prop :=
  ∀ (s : State) (u : Fin Config.NBQ) (ty : BiquadType) (rd rs1 rq rgain : Reg),
    let v := s.x[rs1]
    let b := s.bq[u]
    let out := fadd (fmul v b.coef.a0) b.z1
    exec (.bqCfg (unitField u) ty rs1 rq rgain) s = .next { s with
        bq := s.bq.set u
          { ty := ty, fc := v, q := s.x[rq], gain := s.x[rgain]
            coef := biquadCoeffs Config.default ty v s.x[rq] s.x[rgain] s.fsf
            z1 := if ty = b.ty then b.z1 else 0x00000000#32
            z2 := if ty = b.ty then b.z2 else 0x00000000#32 }
        pc := s.pc + 1 }
      ∧ exec (.bqProc rd rs1 (unitField u)) s = .next { s with
        bq := s.bq.set u { b with
          z1 := fsub (fadd (fmul v b.coef.a1) b.z2) (fmul b.coef.b1 out)
          z2 := fsub (fmul v b.coef.a2) (fmul b.coef.b2 out) }
        x := s.x.set rd out, pc := s.pc + 1 }
      ∧ exec (.bqRst (unitField u)) s = .next { s with
        bq := s.bq.set u { b with z1 := 0x00000000#32, z2 := 0x00000000#32 }, pc := s.pc + 1 }

/-- The derivation is that of R166 with the formulas of R172 to R178, type by type, the boost and the cut branch of PEAK,
LOWSHELF and HIGHSHELF each as the rule writes it; and because it clamps cutoff, Q and gain first, a parameter outside its
range gives the coefficients of the bound. -/
def Obligations.BiquadDerivationClampsItsParameters : Prop :=
  ∀ (ty : BiquadType) (fc q gain fsf : F32),
    (fle 0x3F800000#32 (fmul fsf 0x3EF00000#32) = true →
      biquadCoeffs Config.default ty fc q gain fsf
        = biquadCoeffs Config.default ty (clampf fc 0x3F800000#32 (fmul fsf 0x3EF00000#32))
          (clampf q 0x3D800000#32 0x42800000#32) (clampf gain 0xC2200000#32 0x42200000#32) fsf)
    ∧ (let c := biquadCoeffs Config.default ty fc q gain fsf
       let one : F32 := 0x3F800000#32
       let g := clampf gain 0xC2200000#32 0x42200000#32
       let k := numTan Config.default
         (fdiv (fmul 0x40490FDB#32 (clampf fc 0x3F800000#32 (fmul fsf 0x3EF00000#32))) fsf)
       let v := numPow10 (fdiv (fabs g) 0x41A00000#32)
       let boost := fge g 0x00000000#32
       let kk := fmul k k
       let kq := fdiv k (clampf q 0x3D800000#32 0x42800000#32)
       let vkq := fmul v kq
       let den := fun a b => fadd (fadd one a) b
       let num := fun a b => fadd (fsub one a) b
       let two := fun a => fmul 0x40000000#32 a
       let s2k := fmul 0x3FB504F3#32 k
       let s2vk := fmul (fsqrt (two v)) k
       let vkk := fmul v kk
       let vden := fun a b => fadd (fadd v a) b
       let vnum := fun a b => fadd (fsub v a) b
       match ty with
       | .lpf =>
         let norm := fdiv one (den kq kk)
         c.a0 = fmul kk norm ∧ c.a1 = two c.a0 ∧ c.a2 = c.a0
           ∧ c.b1 = fmul (two (fsub kk one)) norm ∧ c.b2 = fmul (num kq kk) norm
       | .bpf =>
         let norm := fdiv one (den kq kk)
         c.a0 = fmul kq norm ∧ c.a1 = 0x00000000#32 ∧ c.a2 = fneg c.a0
           ∧ c.b1 = fmul (two (fsub kk one)) norm ∧ c.b2 = fmul (num kq kk) norm
       | .hpf =>
         let norm := fdiv one (den kq kk)
         c.a0 = norm ∧ c.a1 = fmul 0xC0000000#32 c.a0 ∧ c.a2 = c.a0
           ∧ c.b1 = fmul (two (fsub kk one)) norm ∧ c.b2 = fmul (num kq kk) norm
       | .notch =>
         let norm := fdiv one (den kq kk)
         c.a0 = fmul (fadd one kk) norm ∧ c.a1 = fmul (two (fsub kk one)) norm ∧ c.a2 = c.a0
           ∧ c.b1 = c.a1 ∧ c.b2 = fmul (num kq kk) norm
       | .peak =>
         if boost = true then
           let norm := fdiv one (den kq kk)
           c.a0 = fmul (den vkq kk) norm ∧ c.a1 = fmul (two (fsub kk one)) norm ∧ c.a2 = fmul (num vkq kk) norm
             ∧ c.b1 = c.a1 ∧ c.b2 = fmul (num kq kk) norm
         else
           let norm := fdiv one (den vkq kk)
           c.a0 = fmul (den kq kk) norm ∧ c.a1 = fmul (two (fsub kk one)) norm ∧ c.a2 = fmul (num kq kk) norm
             ∧ c.b1 = c.a1 ∧ c.b2 = fmul (num vkq kk) norm
       | .lowshelf =>
         if boost = true then
           let norm := fdiv one (den s2k kk)
           c.a0 = fmul (den s2vk vkk) norm ∧ c.a1 = fmul (two (fsub vkk one)) norm ∧ c.a2 = fmul (num s2vk vkk) norm
             ∧ c.b1 = fmul (two (fsub kk one)) norm ∧ c.b2 = fmul (num s2k kk) norm
         else
           let norm := fdiv one (den s2vk vkk)
           c.a0 = fmul (den s2k kk) norm ∧ c.a1 = fmul (two (fsub kk one)) norm ∧ c.a2 = fmul (num s2k kk) norm
             ∧ c.b1 = fmul (two (fsub vkk one)) norm ∧ c.b2 = fmul (num s2vk vkk) norm
       | .highshelf =>
         if boost = true then
           let norm := fdiv one (den s2k kk)
           c.a0 = fmul (vden s2vk kk) norm ∧ c.a1 = fmul (two (fsub kk v)) norm ∧ c.a2 = fmul (vnum s2vk kk) norm
             ∧ c.b1 = fmul (two (fsub kk one)) norm ∧ c.b2 = fmul (num s2k kk) norm
         else
           let norm := fdiv one (vden s2vk kk)
           c.a0 = fmul (den s2k kk) norm ∧ c.a1 = fmul (two (fsub kk one)) norm ∧ c.a2 = fmul (num s2k kk) norm
             ∧ c.b1 = fmul (two (fsub kk v)) norm ∧ c.b2 = fmul (vnum s2vk kk) norm)

/-! ## Envelopes (spec/43_envelope.md) -/

/-- The default time table has 128 entries in 1..65535, non-increasing, so its largest first and its smallest last (R191),
and sums to the check value 1000135 of R192; every accepted time table meets the same constraints. -/
def Obligations.TimeTableMeetsItsConstraints : Prop :=
  Config.timeTable.length = 128
    ∧ (∀ i : Nat, i < 128 → 1 ≤ Config.timeTable.getD i 0 ∧ Config.timeTable.getD i 0 ≤ 65535)
    ∧ (∀ i : Nat, i < 127 → Config.timeTable.getD (i + 1) 0 ≤ Config.timeTable.getD i 0)
    ∧ Config.timeTable.getD 0 0 = 65535 ∧ Config.timeTable.getD 127 0 = 12 ∧ Config.timeTable.sum = 1000135
    ∧ (∀ cfg : Params, cfg.timeTable.length = 128
      ∧ (∀ i : Nat, i < 128 → 1 ≤ cfg.timeTable.getD i 0 ∧ cfg.timeTable.getD i 0 ≤ 65535)
      ∧ (∀ i : Nat, i < 127 → cfg.timeTable.getD (i + 1) 0 ≤ cfg.timeTable.getD i 0))

/-- TLOOKUP answers the entry of the time table at `rhaz(fmul(clamp01(knob), 127.0))` for every knob pattern, so 65535 for
a knob that is not above zero (a NaN included) and 12 for one that is not below one; a larger knob never gives a larger step (R196). -/
def Obligations.LookupSelectsATableEntry : Prop :=
  ∀ (s : State) (rd rs1 : Reg), ∃ i : Nat, i ≤ 127
    ∧ exec (.tlookup rd rs1) s = .next { s with
      x := s.x.set rd (BitVec.ofNat 32 (Config.timeTable.getD i 0)), pc := s.pc + 1 }
    ∧ (i : Int) = rhaz (fmul (clampf s.x[rs1] 0x00000000#32 0x3F800000#32) 0x42FE0000#32)
    ∧ (flt fZero s.x[rs1] = false → i = 0) ∧ (fle fOne s.x[rs1] = true → i = 127)
    ∧ (∀ v : F32, fle s.x[rs1] v = true →
      (i : Int) ≤ rhaz (fmul (clampf v 0x00000000#32 0x3F800000#32) 0x42FE0000#32))

/-- ENV.MODE to a new mode selects it and forces Idle at level 0, keeping GATE, steps and sustain, and to the mode in force
changes nothing; ENV.TIME loads the step register its selector names from the time table at the knob's index (R196),
ENV.SUS the sustain level, ENV.RST clears ST, LEVEL and GATE, ENV.RDF reads LEVEL over 65535; each changes nothing else (R193, R194, R195, R199,
R200). -/
def Obligations.EnvelopeConfigurationAndReadout : Prop :=
  ∀ (s : State) (e : Fin Config.NENV) (m : EnvMode) (rd rs1 : Reg),
    let index := rhaz (fmul (clampf s.x[rs1] 0x00000000#32 0x3F800000#32) 0x42FE0000#32)
    let step := BitVec.ofNat 16 (Config.timeTable.getD index.toNat 0)
    exec (.envMode (unitField e) m) s = .next
        (if m = s.env[e].mode then { s with pc := s.pc + 1 }
        else { s with env := s.env.set e { s.env[e] with mode := m, st := .idle, level := 0#32 }, pc := s.pc + 1 }) ∧
    exec (.envTime (unitField e) .attack rs1) s
        = .next { s with env := s.env.set e { s.env[e] with astep := step }, pc := s.pc + 1 }
      ∧ exec (.envTime (unitField e) .decay rs1) s
        = .next { s with env := s.env.set e { s.env[e] with dstep := step }, pc := s.pc + 1 }
      ∧ exec (.envTime (unitField e) .release rs1) s
        = .next { s with env := s.env.set e { s.env[e] with rstep := step }, pc := s.pc + 1 }
      ∧ exec (.envSus (unitField e) rs1) s = .next { s with
        env := s.env.set e { s.env[e] with
          sus := BitVec.ofInt 16 (rhaz (fmul (clampf s.x[rs1] fZero fOne) 0x477FFF00#32)) }
        pc := s.pc + 1 }
      ∧ exec (.envRst (unitField e)) s = .next { s with
        env := s.env.set e { s.env[e] with st := .idle, level := 0#32, gate := false }, pc := s.pc + 1 }
      ∧ exec (.envRdf rd (unitField e)) s = .next { s with
        x := s.x.set rd (fdiv (i2f s.env[e].level.toInt) 0x477FFF00#32), pc := s.pc + 1 }

/-- One ENV.TICK of a unit whose level is in 0..65535: the gate is latched; the edge rules give a state; the action of that
state runs with strict comparisons; the new level is answered and is again in 0..65535; only the unit and the destination
change (R197, R19). -/
def Obligations.EnvelopeTickFollowsTheStateMachine : Prop :=
  ∀ (s : State) (e : Fin Config.NENV) (rd : Reg) (gate : Bool), s.env[e].level.toNat ≤ 65535 →
    let v := s.env[e]
    let l := v.level.toNat
    let reached : EnvState :=
      if v.mode = .lfo then (if v.st = .idle ∧ gate = true then .attack else v.st)
      else if gate = true ∧ v.gate = false then .attack
      else if gate = false ∧ v.gate = true ∧ v.st ≠ .idle ∧ v.st ≠ .release then .release
      else v.st
    let out : Nat × EnvState :=
      match reached with
      | .idle => (l, .idle)
      | .attack =>
        if 65535 < l + v.astep.toNat then (65535, if v.mode = .adsr then .decay else .release)
        else (l + v.astep.toNat, .attack)
      | .decay => if l < v.sus.toNat + v.dstep.toNat then (v.sus.toNat, .sustain) else (l - v.dstep.toNat, .decay)
      | .sustain => (v.sus.toNat, .sustain)
      | .release => if l < v.rstep.toNat then (0, .idle) else (l - v.rstep.toNat, .release)
    out.1 ≤ 65535
      ∧ exec (.envTick rd (unitField e) gate) s = .next { s with
        env := s.env.set e { v with gate := gate, st := out.2, level := BitVec.ofNat 32 out.1 }
        x := s.x.set rd (BitVec.ofNat 32 out.1), pc := s.pc + 1 }

/-- Ticks with the gate at its latched level: Attack from level L0 with step a leaves Attack on tick (65535 - L0) div a + 1,
Release from L0 with step r reaches Idle on tick L0 div r + 1, Decay from 65535 to s with step d enters Sustain on tick
(65535 - s) div d + 1, the level moving by one step a tick before; so 2 ticks at TT[0] and 5462 at TT[127] (R203). -/
def Obligations.SegmentLengthsInTicks : Prop :=
  (∀ (s : State) (e : Fin Config.NENV) (rd : Reg) (n : Nat), s.env[e].level.toNat ≤ 65535 →
    let v := s.env[e]
    let run := execAll (List.replicate n (.envTick rd (unitField e) v.gate)) s
    (v.st = .attack → 1 ≤ v.astep.toNat →
      (n ≤ (65535 - v.level.toNat) / v.astep.toNat → ∃ t, run = .next t ∧ t.env[e].st = .attack
        ∧ t.env[e].level.toNat = v.level.toNat + n * v.astep.toNat)
      ∧ (n = (65535 - v.level.toNat) / v.astep.toNat + 1 → ∃ t, run = .next t ∧ t.env[e].level = 65535#32
        ∧ t.env[e].st = if v.mode = .adsr then .decay else .release))
    ∧ (v.st = .release → 1 ≤ v.rstep.toNat →
      (n ≤ v.level.toNat / v.rstep.toNat → ∃ t, run = .next t ∧ t.env[e].st = .release
        ∧ t.env[e].level.toNat = v.level.toNat - n * v.rstep.toNat)
      ∧ (n = v.level.toNat / v.rstep.toNat + 1 → ∃ t, run = .next t ∧ t.env[e].st = .idle ∧ t.env[e].level = 0#32))
    ∧ (v.st = .decay → 1 ≤ v.dstep.toNat → v.level = 65535#32 →
      (n ≤ (65535 - v.sus.toNat) / v.dstep.toNat → ∃ t, run = .next t ∧ t.env[e].st = .decay
        ∧ t.env[e].level.toNat = 65535 - n * v.dstep.toNat)
      ∧ (n = (65535 - v.sus.toNat) / v.dstep.toNat + 1 → ∃ t, run = .next t ∧ t.env[e].st = .sustain
        ∧ t.env[e].level.toNat = v.sus.toNat)))
  ∧ 65535 / (timeStep Config.default 0).toNat + 1 = 2 ∧ 65535 / (timeStep Config.default 127).toNat + 1 = 5462

/-- Sustain tracks the knob: with the gate at its latched level, every tick in Sustain sets the level to SUS and stays in
Sustain; so a tick after an ENV.SUS answers the new sustain level; and in Decay, where an ENV.SUS makes SUS a lower target,
the tick stays in Decay while the level less a step does not fall below it, or, where it raises SUS above the level, the
tick clamps up to SUS and enters Sustain (R202). -/
def Obligations.SustainTracksTheKnob : Prop :=
  ∀ (s : State) (e : Fin Config.NENV) (rd rs1 : Reg),
    let v := s.env[e]
    let sus := (sustainOfKnob s.x[rs1]).setWidth 32
    let tick : Instr := .envTick rd (unitField e) v.gate
    (v.st = .sustain →
      (∃ t, exec tick s = .next t ∧ t.x[rd] = v.sus.setWidth 32 ∧ t.env[e].st = .sustain ∧ t.env[e].level = t.x[rd])
      ∧ ∃ t, execAll [.envSus (unitField e) rs1, tick] s = .next t
        ∧ t.x[rd] = sus ∧ t.env[e].st = .sustain ∧ t.env[e].level = t.x[rd])
    ∧ (v.st = .decay → v.level.toNat ≤ 65535 → ∃ t, execAll [.envSus (unitField e) rs1, tick] s = .next t
      ∧ t.env[e].level = t.x[rd]
      ∧ (sus.toNat + v.dstep.toNat ≤ v.level.toNat →
        t.x[rd].toNat = v.level.toNat - v.dstep.toNat ∧ t.env[e].st = .decay)
      ∧ (v.level.toNat < sus.toNat → t.x[rd] = sus ∧ t.env[e].st = .sustain))

/-! ## Level meters (spec/44_levelmeter.md) -/

/-- LM.CFG stores its configuration and derives COEF, keeping the running registers; LM.RST zeroes the running registers,
keeping the configuration; neither changes anything else (R220, R221, R227). -/
def Obligations.MeterConfigureAndReset : Prop :=
  ∀ (s : State) (m : Fin Config.NLM) (rs1 : Reg) (presel : BitVec 4) (hold : Word),
    (presel.toNat ≤ Config.NBQ → ∃ pre : Option (Fin Config.NBQ), preselCode pre = presel.toNat
      ∧ exec (.lmCfg (unitField m) rs1 presel hold) s = .next { s with
        lm := s.lm.set m { s.lm[m] with
          fcs := s.x[rs1], presel := pre, holdCfg := hold
          coef := numExp (fneg (fdiv
            (fmul 0x40C90FDB#32 (clampf s.x[rs1] fZero (fmul s.fsf 0x3EF00000#32))) s.fsf)) }
        pc := s.pc + 1 })
    ∧ exec (.lmRst (unitField m)) s = .next { s with
      lm := s.lm.set m { s.lm[m] with level := 0x00000000#32, peak := 0x00000000#32, hold := 0#32 }, pc := s.pc + 1 }

/-- LM.PROC measures the magnitude of its input, or of what the pre-filter biquad makes of it (advancing that unit as
BQ.PROC does): above the level it sets level, peak and hold, else it decays the level and counts the hold down; no other
unit and no sample register changes (R222, R223). -/
def Obligations.MeterStepAttacksAtOnceAndDecays : Prop :=
  ∀ (s : State) (m : Fin Config.NLM) (rs1 : Reg),
    let v := s.lm[m]
    let after := fun measured : F32 =>
      if fgt (fabs measured) v.level then { v with level := fabs measured, peak := fabs measured, hold := v.holdCfg }
      else { v with level := fmul v.level v.coef, hold := BitVec.ofNat 32 (v.hold.toNat - 1) }
    (v.presel = none → exec (.lmProc (unitField m) rs1) s
      = .next { s with lm := s.lm.set m (after s.x[rs1]), pc := s.pc + 1 })
    ∧ (∀ u : Fin Config.NBQ, v.presel = some u → ∀ rd : Reg, ∃ t : State,
      exec (.bqProc rd rs1 (unitField u)) s = .next t
        ∧ exec (.lmProc (unitField m) rs1) s
          = .next { s with bq := t.bq, lm := s.lm.set m (after t.x[rd]), pc := s.pc + 1 })

/-- The six readings of LM.RD, the peak readings reporting no peak when HOLD is 0, and the two decibel readings in
[-96, 0] (R225). -/
def Obligations.MeterReadingsFollowTheirSelectors : Prop :=
  ∀ (s : State) (m : Fin Config.NLM) (rd : Reg),
    let v := s.lm[m]
    let reads := fun (sel : ReadSel) (w : Word) =>
      exec (.lmRd rd (unitField m) sel) s = .next { s with x := s.x.set rd w, pc := s.pc + 1 }
    let dec := fun w : F32 => clampf (fmul 0x41A00000#32 (numLog10 (fadd w 0x30800000#32))) 0xC2C00000#32 fZero
    reads .level v.level ∧ reads .peak (if v.hold = 0#32 then fZero else v.peak) ∧ reads .levelDb (dec v.level)
      ∧ reads .peakDb (if v.hold = 0#32 then 0xC2C00000#32 else dec v.peak) ∧ reads .hold v.hold
      ∧ reads .light (clampf v.level fZero fOne) ∧ (∀ w, inRange 0xC2C00000#32 fZero (dec w))

/-- If COEF is in [0, 1], LEVEL finite and not negative and PEAK not below it, then after an LM.PROC COEF is in [0, 1],
LEVEL not negative and PEAK not below it; and of a zeroed meter with a derived coefficient at a legal rate it holds (R224).
LEVEL has to be finite: R224 does not say so, but by R223 an infinite LEVEL times a COEF of zero is a NaN. -/
def Obligations.MeterKeepsPeakAboveLevel : Prop :=
  (∀ (s t : State) (m : Fin Config.NLM) (rs1 : Reg), s.lm[m].Undisturbed → isFinite s.lm[m].level = true →
    exec (.lmProc (unitField m) rs1) s = .next t → t.lm[m].Undisturbed)
  ∧ (∀ (v : Meter) (fs : Nat), 8000 ≤ fs → fs ≤ 96000 → v.coef = meterCoef Config.default v.fcs (u2f fs) →
    v.level = fZero → v.peak = fZero → v.Undisturbed)

/-- Peak-hold timing: after one sample of magnitude A above the level and k samples of +0.0, HOLD is H - k and PEAK is A; so
the PEAK reading is A for k below H and no peak from then on (R228). -/
def Obligations.PeakIsHeldForTheHoldTime : Prop :=
  ∀ (s : State) (m : Fin Config.NLM) (rd rs1 rs2 : Reg) (k : Nat),
    s.lm[m].Undisturbed → s.lm[m].presel = none → fgt (fabs s.x[rs1]) s.lm[m].level = true → s.x[rs2] = 0x00000000#32 →
    ∃ t, execAll (.lmProc (unitField m) rs1 :: List.replicate k (.lmProc (unitField m) rs2)) s = .next t
      ∧ t.lm[m].hold.toNat = s.lm[m].holdCfg.toNat - k ∧ t.lm[m].peak = fabs s.x[rs1]
      ∧ exec (.lmRd rd (unitField m) .peak) t = .next { t with
        x := t.x.set rd (if k < s.lm[m].holdCfg.toNat then fabs s.x[rs1] else 0x00000000#32), pc := t.pc + 1 }
      ∧ (s.lm[m].holdCfg.toNat ≤ k →
        exec (.lmRd rd (unitField m) .peakDb) t = .next { t with x := t.x.set rd 0xC2C00000#32, pc := t.pc + 1 })

/-! ## The reverberator (spec/45_reverberator.md) -/

/-- RV.CHAR sets the preset, its coefficients, the five borrowed cutoffs with their A0, the layout and the echo time, all at
once, and keeps the histories, the knobs and everything else (R242). -/
def Obligations.CharacterPresetIsAppliedWhole : Prop :=
  ∀ (s : State) (p : Fin Config.NPRESET), ∃ t,
    exec (.rvChar (BitVec.ofNat 4 p.val)) s = .next t
      ∧ t = { s with
        op := t.op
        rv := { s.rv with
          preset := p, kap := (Config.preset p).kap, kcomb := (Config.preset p).kcomb
          s := layoutOf Config.default p s.fs.toNat, etime := echoTimeOf Config.default s.rv.etimereq s.fs.toNat }
        pc := s.pc + 1 }
      ∧ ((List.finRange 5).map fun u => t.op[u].fc) = [(Config.preset p).fLow, (Config.preset p).fHigh,
        (Config.preset p).fDamp, (Config.preset p).fDamp, 0x453B8000#32]
      ∧ (∀ u : Fin Config.NOP, t.op[u].z1 = s.op[u].z1
        ∧ (u.val < 5 → t.op[u].a0 = onePoleA0 Config.default t.op[u].fc s.fsf) ∧ (5 ≤ u.val → t.op[u] = s.op[u]))

/-- RV.PARAM sets the registers of its selector from the clamped knob by the laws of R246; RV.ETIME stores the request and
the clamped time; neither changes anything else (R246, R247, R245). -/
def Obligations.ReverbControlsSetTheirRegisters : Prop :=
  ∀ (s : State) (rs1 : Reg) (q : Word),
    let c := clampf s.x[rs1] fZero fOne
    let sets := fun (sel : ParamSel) (r : Reverb) =>
      exec (.rvParam sel rs1) s = .next { s with rv := r, pc := s.pc + 1 }
    sets .tone (if fle c fHalf then
        { s.rv with tone := c, klow := fsub fOne (fmul fTwo c), khigh := fZero, kpass := fmul fTwo c }
      else { s.rv with tone := c, klow := fZero, khigh := fsub (fmul fTwo c) fOne, kpass := fsub fTwo (fmul fTwo c) })
      ∧ sets .size { s.rv with size := c, krt := fadd 0x3E800000#32 (fmul c 0x3F200000#32) }
      ∧ sets .feedback { s.rv with kfb := clampf s.x[rs1] fZero 0x3F700000#32 }
      ∧ sets .dry { s.rv with kdry := c } ∧ sets .reverb { s.rv with krev := c } ∧ sets .echo { s.rv with kecho := c }
      ∧ exec (.rvEtime q) s = .next { s with
        rv := { s.rv with
          etimereq := q
          etime := BitVec.ofNat 32
            (min (max q.toNat (3 * 4096)) ((max 4 (24000 * s.fs.toNat / 48000) - 1) * 4096)) }
        pc := s.pc + 1 }

/-- The feedback coefficients that the knobs and presets set are bounded: in every state with the invariant KRT is in
[0.25, 0.875], KFB at most 15/16 and KAP and KCOMB of magnitude at most 63/64 (R246, R243). -/
def Obligations.ReverbFeedbackCoefficientsAreBounded : Prop :=
  ∀ s : State, s.ReverbInv →
    inRange 0x3E800000#32 0x3F600000#32 s.rv.krt ∧ inRange fZero 0x3F700000#32 s.rv.kfb
      ∧ inRange 0xBF7C0000#32 0x3F7C0000#32 s.rv.kap ∧ inRange 0xBF7C0000#32 0x3F7C0000#32 s.rv.kcomb

/-- At every configuration, for every preset and every legal rate, the boundaries are those of R244 and end at S[7] at most
CAP[0] - 1, the registers holding them exactly; at the defaults S[7] is at most 70007, which HALL reaches at 96000 Hz. A
parameter record that breaks this at some preset and legal rate has no machine (R12). And in every state with the rate and
reverberator invariants the cells of the main echo tap lie inside the echo region and the one-third tap is at least one
sample old (R245). -/
def Obligations.ReverbLayoutFitsTheLine : Prop :=
  (∀ (cfg : Params) (p : Fin cfg.npreset) (fs : Nat), cfg.fsMin ≤ fs → fs ≤ cfg.fsMax →
    let s := boundary cfg p fs
    s 0 = 0 ∧ (∀ r : Fin 6, s (r.val + 1) = s r.val + max 1 ((cfg.preset p).len48[r] * fs / 48000) + 1)
      ∧ s 7 = s 6 + max 4 (cfg.rvEchoLen48 * fs / 48000) + 1 ∧ s 7 ≤ cfg.cap cfg.line0 - 1
      ∧ (∀ r : Fin 8, (layoutOf cfg p fs)[r].toNat = s r.val))
  ∧ (∀ (p : Fin Config.NPRESET) (fs : Nat), fs ≤ 96000 → boundary Config.default p fs 7 ≤ 70007)
  ∧ boundary Config.default 1 96000 7 = 70007
  ∧ (∀ (r : RawParams) (q : Preset) (fs : Nat), q ∈ r.presets → r.fsMin ≤ fs → fs ≤ r.fsMax →
    2 ^ r.dlLog2.getD 0 0 - 1 < r.boundaryOf q fs 7 → coreOf r = none)
  ∧ (∀ s : State, s.RateInv → s.ReverbInv →
    let time := s.rv.etime.toNat
    regionStart s 6 + time / 4096 + 1 ≤ regionEnd s 6
      ∧ 4096 ≤ time / 3 ∧ time / 3 ≤ 2 * time / 3 ∧ 2 * time / 3 ≤ time)

/-- RV.PROC completes from every state. It rotates line 0, changes cells of that line only at the starts of its seven
regions, leaves at the echo write point the tone blend plus the filtered feedback, advances the histories of one-pole units
0 to 4, writes the left and then the right output by the mix of R253, and changes nothing else. In a state with the rate and
reverberator invariants every tap is the cell as it stood after the rotation: the echo terms of the mix and the input of
unit 4 are the taps of R251; the tone blend runs through the four diffuser sections of R252 into the two combs of R249,
each fed with the other channel's previous output through units 2 and 3, whose outputs are YL and YR; and, the buffers being
canonical, the six sections have stored their values at their regions' starts (R248, R249, R250, R251, R252, R253). -/
def Obligations.ReverbStepMixesAndFeedsBack : Prop :=
  ∀ (s : State) (rl rr rs1 : Reg), ∃ t, ∃ eL eR : F32,
    let v := s.x[rs1]
    let r := rotate s 0
    let echo := fun time : Nat => readInterpolated r 0 (regionStart s 6 * 4096 + time)
    let time := s.rv.etime.toNat
    let next := fun (o : OnePole) (v : F32) => fadd o.z1 (fmul (fsub v o.z1) o.a0)
    let unit := fun u : Fin Config.NOP => t.op[u].z1
    let blend := fadd (fadd (fmul (unit 0) s.rv.klow) (fmul (fsub v (unit 1)) s.rv.khigh)) (fmul v s.rv.kpass)
    let tap := fun g : Fin 7 => readOffset r 0 (regionEnd s g)
    let store := fun acc tap g : F32 => fsub acc (fmul tap g)
    let out := fun w tap g : F32 => fadd (fmul w g) tap
    let w0 := store blend (tap 0) s.rv.kap
    let w1 := store (out w0 (tap 0) s.rv.kap) (tap 1) s.rv.kap
    let w2 := store (out w1 (tap 1) s.rv.kap) (tap 2) s.rv.kap
    let w3 := store (out w2 (tap 2) s.rv.kap) (tap 3) s.rv.kap
    let d := out w3 (tap 3) s.rv.kap
    let wL := store (fadd d (fmul (unit 2) s.rv.krt)) (tap 4) s.rv.kcomb
    let wR := store (fadd d (fmul (unit 3) s.rv.krt)) (tap 5) s.rv.kcomb
    let stored := fun g : Fin 7 => memRead t 0 (dlIndex r 0 (regionStart s g))
    exec (.rvProc rl rr rs1) s = .next t
      ∧ t = { s with
        x := t.x, dl := t.dl, op := t.op, rv := { s.rv with yl := t.rv.yl, yr := t.rv.yr }, pc := s.pc + 1 }
      ∧ t.x = (s.x.set rl (fadd (fadd (fmul v s.rv.kdry) (fmul t.rv.yl s.rv.krev)) (fmul eL s.rv.kecho))).set rr
          (fadd (fadd (fmul v s.rv.kdry) (fmul t.rv.yr s.rv.krev)) (fmul eR s.rv.kecho))
      ∧ t.dl[(0 : Fin Config.NDL)].dp = r.dl[(0 : Fin Config.NDL)].dp
      ∧ t.dl[(1 : Fin Config.NDL)] = s.dl[(1 : Fin Config.NDL)]
      ∧ (∀ a : Nat, (∀ g : Fin 7, a ≠ dlIndex r 0 (regionStart s g)) → memRead t 0 a = memRead s 0 a)
      ∧ (∀ u : Fin Config.NOP, t.op[u].fc = s.op[u].fc ∧ t.op[u].a0 = s.op[u].a0 ∧ (5 ≤ u.val → t.op[u] = s.op[u]))
      ∧ unit 0 = next s.op[(0 : Fin Config.NOP)] v ∧ unit 1 = next s.op[(1 : Fin Config.NOP)] v
      ∧ unit 2 = next s.op[(2 : Fin Config.NOP)] s.rv.yr ∧ unit 3 = next s.op[(3 : Fin Config.NOP)] s.rv.yl
      ∧ (s.LineInv → stored 6 = fadd blend (fmul (unit 4) s.rv.kfb))
      ∧ (s.RateInv → s.ReverbInv →
        unit 4 = next s.op[(4 : Fin Config.NOP)] (echo time)
          ∧ eL = fmul (fadd (echo time) (echo (2 * time / 3))) fHalf
          ∧ eR = fmul (fadd (echo time) (echo (time / 3))) fHalf
          ∧ t.rv.yl = out wL (tap 4) s.rv.kcomb ∧ t.rv.yr = out wR (tap 5) s.rv.kcomb
          ∧ (s.LineInv → stored 0 = w0 ∧ stored 1 = w1 ∧ stored 2 = w2 ∧ stored 3 = w3 ∧ stored 4 = wL ∧ stored 5 = wR))

/-- From the reset registers, delay memory blank and histories zero, RV.PROC answers a finite non-zero input unchanged in
its two registers, whatever the sample registers and the host's side hold (R67, R248). -/
def Obligations.ResetReverbPassesItsInput : Prop :=
  ∀ (x : Vector Word Config.NX) (rest : List HostEvent) (rl rr rs1 : Reg),
    isFinite x[rs1] = true → isZero x[rs1] = false → ∃ t,
    exec (.rvProc rl rr rs1) { State.reset with x := x, input := rest } = .next t
      ∧ t.x = (x.set rl x[rs1]).set rr x[rs1]

/-- RV.RST makes every cell of line 0 zero and its cursor 0, clears the histories of one-pole units 0 to 4 and YL and YR,
and keeps line 1, the other units, all configuration and everything else (R255). -/
def Obligations.ReverbResetClearsItsRunningState : Prop :=
  ∀ s : State, ∃ t,
    exec .rvRst s = .next t
      ∧ t = { s with
        dl := t.dl, op := t.op, rv := { s.rv with yl := 0x00000000#32, yr := 0x00000000#32 }, pc := s.pc + 1 }
      ∧ (∀ a : Nat, memRead t 0 a = 0x00000000#32) ∧ t.dl[(0 : Fin Config.NDL)].dp = 0#32
      ∧ t.dl[(1 : Fin Config.NDL)] = s.dl[(1 : Fin Config.NDL)]
      ∧ (∀ u : Fin Config.NOP, t.op[u] = if u.val < 5 then { s.op[u] with z1 := 0x00000000#32 } else s.op[u])
end

