-- ==== Sys2Proof/Laws/Encoding.lean ====
section
/-! SUPPORT. The laws of the encoding: the fields of a word and the word of the fields are inverse, and so are the codes of
the named selectors (spec/30_encoding.md R100, R111). -/

namespace Sys2Proof

/-! ## Words and fields -/

/-- The fields of a word built from fields are those fields. -/
@[simp] theorem fieldsOf_wordOf (f : Fields) : fieldsOf (wordOf f) = f := by
  obtain ⟨a, b, c, d, e, u, i⟩ := f
  simp only [fieldsOf, wordOf, Fields.mk.injEq]
  refine ⟨?_, ?_, ?_, ?_, ?_, ?_, ?_⟩ <;>
  · apply BitVec.eq_of_getLsbD_eq
    intro j hj
    simp only [BitVec.getLsbD_extractLsb', BitVec.getLsbD_append, hj, decide_true, Bool.true_and]
    repeat' split
    all_goals first
      | (exfalso; omega)
      | (congr 1; omega)

/-- A word is built from its own fields: no bit of it is outside them. -/
@[simp] theorem wordOf_fieldsOf (c : CommandWord) : wordOf (fieldsOf c) = c := by
  apply BitVec.eq_of_getLsbD_eq
  intro j hj
  simp only [fieldsOf, wordOf, BitVec.getLsbD_extractLsb', BitVec.getLsbD_append]
  repeat' split
  all_goals
    rw [decide_eq_true (by omega), Bool.true_and]
    congr 1
    omega

theorem fieldsOf_encode (i : Instr) : fieldsOf (encode i) = encodeFields i := fieldsOf_wordOf _

/-! ## Register fields and immediates -/

@[simp] theorem regOf_regField (r : Reg) : regOf (regField r) = r := rfl

@[simp] theorem regField_regOf (f : BitVec 4) : regField (regOf f) = f := rfl

@[simp] theorem addrImm_low (a : BitVec 16) : (addrImm a).extractLsb' 0 16 = a := by
  apply BitVec.eq_of_getLsbD_eq
  intro j hj
  simp only [addrImm, BitVec.getLsbD_extractLsb', BitVec.getLsbD_append, hj, decide_true, Bool.true_and, Nat.zero_add,
    if_true]

@[simp] theorem addrImm_unused (a : BitVec 16) : addrImm a &&& 0xFFFF0000#32 = 0#32 := by
  apply BitVec.eq_of_getLsbD_eq
  intro j hj
  simp only [addrImm, BitVec.getLsbD_and, BitVec.getLsbD_append]
  split
  · have h : (0xFFFF0000#32).getLsbD j = false := by interval_cases j <;> rfl
    rw [h, Bool.and_false, BitVec.getLsbD_zero]
  · simp

@[simp] theorem gateImm_bit (g : Bool) : (gateImm g)[0] = g := by cases g <;> rfl

@[simp] theorem gateImm_unused (g : Bool) : gateImm g &&& 0xFFFFFFFE#32 = 0#32 := by cases g <;> rfl

@[simp] theorem allImm_unused (v : BitVec 32) : v &&& ~~~allImm = 0#32 := by simp [allImm]

@[simp] theorem append_high (a b : BitVec 16) : (a ++ b).extractLsb' 16 16 = a := by
  apply BitVec.eq_of_getLsbD_eq
  intro j hj
  simp only [BitVec.getLsbD_extractLsb', BitVec.getLsbD_append, hj, decide_true, Bool.true_and]
  rw [if_neg (by omega), Nat.add_sub_cancel_left]

@[simp] theorem append_low (a b : BitVec 16) : (a ++ b).extractLsb' 0 16 = b := by
  apply BitVec.eq_of_getLsbD_eq
  intro j hj
  simp only [BitVec.getLsbD_extractLsb', BitVec.getLsbD_append, hj, decide_true, Bool.true_and, Nat.zero_add, if_true]

/-! ## Selector codes -/

namespace Machine

@[simp] theorem biquadTypeOf_code (t : BiquadType) : biquadTypeOf (biquadTypeCode t) = some t := by cases t <;> rfl

@[simp] theorem envModeOf_code (m : EnvMode) : envModeOf (envModeCode m) = some m := by cases m <;> rfl

@[simp] theorem timeSelOf_code (t : TimeSel) : timeSelOf (timeSelCode t) = some t := by cases t <;> rfl

@[simp] theorem readSelOf_code (r : ReadSel) : readSelOf (readSelCode r) = some r := by cases r <;> rfl

@[simp] theorem paramSelOf_code (q : ParamSel) : paramSelOf (paramSelCode q) = some q := by cases q <;> rfl

@[simp] theorem envStateOf_code (t : EnvState) : envStateOf (envStateCode t) = some t := by cases t <;> rfl

theorem biquadTypeCode_of : ∀ (c : BitVec 4) (t : BiquadType), biquadTypeOf c = some t → biquadTypeCode t = c := by
  intro c t
  cases t <;> revert c <;> decide

theorem envModeCode_of : ∀ (c : BitVec 4) (t : EnvMode), envModeOf c = some t → envModeCode t = c := by
  intro c t
  cases t <;> revert c <;> decide

theorem timeSelCode_of : ∀ (c : BitVec 4) (t : TimeSel), timeSelOf c = some t → timeSelCode t = c := by
  intro c t
  cases t <;> revert c <;> decide

theorem readSelCode_of : ∀ (c : BitVec 4) (t : ReadSel), readSelOf c = some t → readSelCode t = c := by
  intro c t
  cases t <;> revert c <;> decide

theorem paramSelCode_of : ∀ (c : BitVec 4) (t : ParamSel), paramSelOf c = some t → paramSelCode t = c := by
  intro c t
  cases t <;> revert c <;> decide

end Machine

end Sys2Proof
end

