-- ==== Sys2Proof/Laws/Params.lean ====
section
/-! SUPPORT. What a well-formed configuration gives (spec/00_scope.md R8, R11, R12), the configuration of the core handed
to the host, and the machine at any configuration compared with that core. -/

namespace Sys2Proof

/-! ## The constraints a configuration meets -/

theorem Params.dlLog2_bounds (cfg : Params) (d : Fin cfg.ndl) :
    1 ≤ cfg.dlLog2.getD d.val 0 ∧ cfg.dlLog2.getD d.val 0 ≤ 20 := by
  have h := cfg.ok
  simp only [RawParams.check, RawParams.countsOk, Bool.and_eq_true, decide_eq_true_eq, List.all_eq_true] at h
  have hd : d.val < cfg.dlLog2.length := by rw [h.1.1.1.1.1.1.1.2.2]; exact d.isLt
  rw [List.getD_eq_getElem _ _ hd]
  exact h.1.1.1.1.1.1.2 _ (List.getElem_mem hd)

theorem Params.rates (cfg : Params) :
    cfg.controlRateHz ≤ cfg.fsMin ∧ cfg.fsMax < 2 ^ 24 ∧ cfg.fsMin ≤ cfg.fsDefault ∧ cfg.fsDefault ≤ cfg.fsMax
      ∧ 100 ≤ cfg.controlRateHz ∧ cfg.controlRateHz ≤ 1000 := by
  have h := cfg.ok
  simp only [RawParams.check, RawParams.ratesOk, Bool.and_eq_true, decide_eq_true_eq] at h
  exact h.1.1.1.2

theorem Params.timeTable_ok (cfg : Params) : Machine.timeTableOk cfg.timeTable = true := by
  have h := cfg.ok
  simp only [RawParams.check, Bool.and_eq_true] at h
  exact h.1.2

theorem Params.preset_ok (cfg : Params) (p : Fin cfg.npreset) :
    Machine.presetOk cfg.toRawParams (cfg.preset p) = true := by
  have h := cfg.ok
  simp only [RawParams.check, Bool.and_eq_true, List.all_eq_true] at h
  exact h.2 _ (List.getElem_mem _)

/-- CAP[d] is a power of two from 2 to 2^20 (R8, R11). -/
theorem Params.cap_bounds (cfg : Params) (d : Fin cfg.ndl) : 2 ≤ cfg.cap d ∧ cfg.cap d ≤ 2 ^ 20 :=
  have h := cfg.dlLog2_bounds d
  ⟨Nat.pow_le_pow_right (n := 2) (by decide) h.1, Nat.pow_le_pow_right (by decide) h.2⟩

/-! ## The reverberator's layout at every legal rate (R12) -/

theorem RawParams.delayOf_mono (r : RawParams) (q : Preset) {fs fs' : Nat} (h : fs ≤ fs') (i : Nat) :
    r.delayOf q fs i ≤ r.delayOf q fs' i := by
  unfold RawParams.delayOf RawParams.echoDelay
  split <;> exact max_le_max le_rfl (Nat.div_le_div_right (Nat.mul_le_mul_left _ h))

theorem RawParams.boundaryOf_mono (r : RawParams) (q : Preset) {fs fs' : Nat} (h : fs ≤ fs') (i : Nat) :
    r.boundaryOf q fs i ≤ r.boundaryOf q fs' i := by
  induction i with
  | zero => exact le_rfl
  | succ i ih =>
    have hd := r.delayOf_mono q h i
    simp only [RawParams.boundaryOf]
    omega

/-- The check at FS_MAX is R12 at every rate up to it. -/
theorem Params.boundary_le (cfg : Params) (p : Fin cfg.npreset) {fs : Nat} (h : fs ≤ cfg.fsMax) :
    Machine.boundary cfg p fs 7 ≤ cfg.cap cfg.line0 - 1 := by
  have hp := cfg.preset_ok p
  simp only [Machine.presetOk, Bool.and_eq_true, decide_eq_true_eq] at hp
  exact (cfg.boundaryOf_mono (cfg.preset p) h 7).trans hp.2

/-! ## Accepting a record -/

/-- A record is accepted exactly when it meets the constraints, and a configuration of it has its values. -/
theorem Params.ofRaw_eq_some (r : RawParams) (cfg : Params) :
    Params.ofRaw r = some cfg ↔ r.check = true ∧ cfg.toRawParams = r := by
  unfold Params.ofRaw
  obtain ⟨raw, hok⟩ := cfg
  split
  · simp only [Option.some.injEq, Params.mk.injEq]
    constructor
    · rintro rfl; exact ⟨hok, rfl⟩
    · rintro ⟨_, rfl⟩; rfl
  · rename_i h
    simp only [reduceCtorEq, false_iff, not_and]
    exact fun hc => absurd hc h

theorem Params.ofRaw_default : Params.ofRaw Config.defaultRaw = some Config.default :=
  (Params.ofRaw_eq_some _ _).2 ⟨Config.default.ok, rfl⟩

/-! ## The defaults -/

namespace Config

@[simp] theorem default_line0 : Config.default.line0 = 0 := rfl

@[simp] theorem default_borrowed_val (u : Fin 5) : (Config.default.borrowed u).val = u.val := rfl

@[simp] theorem default_preset0 : Config.default.preset0 = 0 := rfl

theorem default_cap_zero : Config.default.cap 0 = 131072 := rfl

theorem default_cap_one : Config.default.cap 1 = 65536 := rfl

theorem default_preset_zero : Config.default.preset 0 = room := rfl

theorem default_preset_one : Config.default.preset 1 = hall := rfl

end Config

namespace Machine

/-- At the defaults the machine of AnyConfig is the dispatch the host reads. -/
@[simp] theorem execAt_default (i : Instr) (s : State) : execAt i s = exec i s := rfl

/-- At the defaults the step of AnyConfig is the step the host runs. -/
@[simp] theorem stepAt_default (s : State) : stepAt s = step s := rfl

end Machine

/-- The machine at the defaults is the core handed to the host. -/
theorem coreAt_default : Machine.coreAt Config.default = core := rfl

end Sys2Proof
end

