-- ==== Sys2Proof/Laws/State.lean ====
section
/-! SUPPORT. What each update of the state does to each field, one lemma per field per update, so that no later proof
unfolds a record update. -/

namespace Sys2Proof.Machine

variable {cfg : Params}

variable (s : State cfg)

/-! ## `setX`: writing a sample register -/

@[simp] theorem setX_x (r : Reg) (v : Word) : (setX s r v).x = s.x.set r v := rfl
@[simp] theorem setX_status (r : Reg) (v : Word) : (setX s r v).status = s.status := rfl
@[simp] theorem setX_errinfo (r : Reg) (v : Word) : (setX s r v).errinfo = s.errinfo := rfl
@[simp] theorem setX_fs (r : Reg) (v : Word) : (setX s r v).fs = s.fs := rfl
@[simp] theorem setX_fsf (r : Reg) (v : Word) : (setX s r v).fsf = s.fsf := rfl
@[simp] theorem setX_ctrlDiv (r : Reg) (v : Word) : (setX s r v).ctrlDiv = s.ctrlDiv := rfl
@[simp] theorem setX_ctrlCnt (r : Reg) (v : Word) : (setX s r v).ctrlCnt = s.ctrlCnt := rfl
@[simp] theorem setX_k (r : Reg) (v : Word) : (setX s r v).k = s.k := rfl
@[simp] theorem setX_p (r : Reg) (v : Word) : (setX s r v).p = s.p := rfl
@[simp] theorem setX_pq (r : Reg) (v : Word) : (setX s r v).pq = s.pq := rfl
@[simp] theorem setX_dl (r : Reg) (v : Word) : (setX s r v).dl = s.dl := rfl
@[simp] theorem setX_op (r : Reg) (v : Word) : (setX s r v).op = s.op := rfl
@[simp] theorem setX_bq (r : Reg) (v : Word) : (setX s r v).bq = s.bq := rfl
@[simp] theorem setX_lm (r : Reg) (v : Word) : (setX s r v).lm = s.lm := rfl
@[simp] theorem setX_env (r : Reg) (v : Word) : (setX s r v).env = s.env := rfl
@[simp] theorem setX_rv (r : Reg) (v : Word) : (setX s r v).rv = s.rv := rfl
@[simp] theorem setX_pc (r : Reg) (v : Word) : (setX s r v).pc = s.pc := rfl
@[simp] theorem setX_input (r : Reg) (v : Word) : (setX s r v).input = s.input := rfl

/-! ## `advance`: ending a command -/

@[simp] theorem advance_x : (advance s).x = s.x := rfl
@[simp] theorem advance_status : (advance s).status = s.status := rfl
@[simp] theorem advance_errinfo : (advance s).errinfo = s.errinfo := rfl
@[simp] theorem advance_fs : (advance s).fs = s.fs := rfl
@[simp] theorem advance_fsf : (advance s).fsf = s.fsf := rfl
@[simp] theorem advance_ctrlDiv : (advance s).ctrlDiv = s.ctrlDiv := rfl
@[simp] theorem advance_ctrlCnt : (advance s).ctrlCnt = s.ctrlCnt := rfl
@[simp] theorem advance_k : (advance s).k = s.k := rfl
@[simp] theorem advance_p : (advance s).p = s.p := rfl
@[simp] theorem advance_pq : (advance s).pq = s.pq := rfl
@[simp] theorem advance_dl : (advance s).dl = s.dl := rfl
@[simp] theorem advance_op : (advance s).op = s.op := rfl
@[simp] theorem advance_bq : (advance s).bq = s.bq := rfl
@[simp] theorem advance_lm : (advance s).lm = s.lm := rfl
@[simp] theorem advance_env : (advance s).env = s.env := rfl
@[simp] theorem advance_rv : (advance s).rv = s.rv := rfl
@[simp] theorem advance_pc : (advance s).pc = s.pc + 1 := rfl
@[simp] theorem advance_input : (advance s).input = s.input := rfl

/-! ## `raiseIllegal`: taking the exception -/

@[simp] theorem raiseIllegal_x (c : CommandWord) : (raiseIllegal c s).x = s.x := rfl
@[simp] theorem raiseIllegal_status (c : CommandWord) : (raiseIllegal c s).status = setIll s.status := rfl
@[simp] theorem raiseIllegal_errinfo (c : CommandWord) : (raiseIllegal c s).errinfo = upperHalf c := rfl
@[simp] theorem raiseIllegal_fs (c : CommandWord) : (raiseIllegal c s).fs = s.fs := rfl
@[simp] theorem raiseIllegal_fsf (c : CommandWord) : (raiseIllegal c s).fsf = s.fsf := rfl
@[simp] theorem raiseIllegal_ctrlDiv (c : CommandWord) : (raiseIllegal c s).ctrlDiv = s.ctrlDiv := rfl
@[simp] theorem raiseIllegal_ctrlCnt (c : CommandWord) : (raiseIllegal c s).ctrlCnt = s.ctrlCnt := rfl
@[simp] theorem raiseIllegal_k (c : CommandWord) : (raiseIllegal c s).k = s.k := rfl
@[simp] theorem raiseIllegal_p (c : CommandWord) : (raiseIllegal c s).p = s.p := rfl
@[simp] theorem raiseIllegal_pq (c : CommandWord) : (raiseIllegal c s).pq = s.pq := rfl
@[simp] theorem raiseIllegal_dl (c : CommandWord) : (raiseIllegal c s).dl = s.dl := rfl
@[simp] theorem raiseIllegal_op (c : CommandWord) : (raiseIllegal c s).op = s.op := rfl
@[simp] theorem raiseIllegal_bq (c : CommandWord) : (raiseIllegal c s).bq = s.bq := rfl
@[simp] theorem raiseIllegal_lm (c : CommandWord) : (raiseIllegal c s).lm = s.lm := rfl
@[simp] theorem raiseIllegal_env (c : CommandWord) : (raiseIllegal c s).env = s.env := rfl
@[simp] theorem raiseIllegal_rv (c : CommandWord) : (raiseIllegal c s).rv = s.rv := rfl
@[simp] theorem raiseIllegal_pc (c : CommandWord) : (raiseIllegal c s).pc = s.pc + 1 := rfl
@[simp] theorem raiseIllegal_input (c : CommandWord) : (raiseIllegal c s).input = s.input := rfl

/-! ## `memWrite`: storing a cell -/

@[simp] theorem memWrite_x (d : Fin cfg.ndl) (a : Nat) (v : Word) : (memWrite s d a v).x = s.x := rfl
@[simp] theorem memWrite_status (d : Fin cfg.ndl) (a : Nat) (v : Word) : (memWrite s d a v).status = s.status := rfl
@[simp] theorem memWrite_errinfo (d : Fin cfg.ndl) (a : Nat) (v : Word) :
    (memWrite s d a v).errinfo = s.errinfo := rfl
@[simp] theorem memWrite_fs (d : Fin cfg.ndl) (a : Nat) (v : Word) : (memWrite s d a v).fs = s.fs := rfl
@[simp] theorem memWrite_fsf (d : Fin cfg.ndl) (a : Nat) (v : Word) : (memWrite s d a v).fsf = s.fsf := rfl
@[simp] theorem memWrite_ctrlDiv (d : Fin cfg.ndl) (a : Nat) (v : Word) :
    (memWrite s d a v).ctrlDiv = s.ctrlDiv := rfl
@[simp] theorem memWrite_ctrlCnt (d : Fin cfg.ndl) (a : Nat) (v : Word) :
    (memWrite s d a v).ctrlCnt = s.ctrlCnt := rfl
@[simp] theorem memWrite_k (d : Fin cfg.ndl) (a : Nat) (v : Word) : (memWrite s d a v).k = s.k := rfl
@[simp] theorem memWrite_p (d : Fin cfg.ndl) (a : Nat) (v : Word) : (memWrite s d a v).p = s.p := rfl
@[simp] theorem memWrite_pq (d : Fin cfg.ndl) (a : Nat) (v : Word) : (memWrite s d a v).pq = s.pq := rfl
@[simp] theorem memWrite_dl (d : Fin cfg.ndl) (a : Nat) (v : Word) :
    (memWrite s d a v).dl = s.dl.set d { s.dl[d] with buf := Memory.write s.dl[d].buf a v } := rfl
@[simp] theorem memWrite_op (d : Fin cfg.ndl) (a : Nat) (v : Word) : (memWrite s d a v).op = s.op := rfl
@[simp] theorem memWrite_bq (d : Fin cfg.ndl) (a : Nat) (v : Word) : (memWrite s d a v).bq = s.bq := rfl
@[simp] theorem memWrite_lm (d : Fin cfg.ndl) (a : Nat) (v : Word) : (memWrite s d a v).lm = s.lm := rfl
@[simp] theorem memWrite_env (d : Fin cfg.ndl) (a : Nat) (v : Word) : (memWrite s d a v).env = s.env := rfl
@[simp] theorem memWrite_rv (d : Fin cfg.ndl) (a : Nat) (v : Word) : (memWrite s d a v).rv = s.rv := rfl
@[simp] theorem memWrite_pc (d : Fin cfg.ndl) (a : Nat) (v : Word) : (memWrite s d a v).pc = s.pc := rfl
@[simp] theorem memWrite_input (d : Fin cfg.ndl) (a : Nat) (v : Word) : (memWrite s d a v).input = s.input := rfl

/-! ## `writeOffset`: storing at an offset -/

@[simp] theorem writeOffset_x (d : Fin cfg.ndl) (a : Nat) (v : Word) : (writeOffset s d a v).x = s.x := rfl
@[simp] theorem writeOffset_status (d : Fin cfg.ndl) (a : Nat) (v : Word) :
    (writeOffset s d a v).status = s.status := rfl
@[simp] theorem writeOffset_errinfo (d : Fin cfg.ndl) (a : Nat) (v : Word) :
    (writeOffset s d a v).errinfo = s.errinfo := rfl
@[simp] theorem writeOffset_fs (d : Fin cfg.ndl) (a : Nat) (v : Word) : (writeOffset s d a v).fs = s.fs := rfl
@[simp] theorem writeOffset_fsf (d : Fin cfg.ndl) (a : Nat) (v : Word) : (writeOffset s d a v).fsf = s.fsf := rfl
@[simp] theorem writeOffset_ctrlDiv (d : Fin cfg.ndl) (a : Nat) (v : Word) :
    (writeOffset s d a v).ctrlDiv = s.ctrlDiv := rfl
@[simp] theorem writeOffset_ctrlCnt (d : Fin cfg.ndl) (a : Nat) (v : Word) :
    (writeOffset s d a v).ctrlCnt = s.ctrlCnt := rfl
@[simp] theorem writeOffset_k (d : Fin cfg.ndl) (a : Nat) (v : Word) : (writeOffset s d a v).k = s.k := rfl
@[simp] theorem writeOffset_p (d : Fin cfg.ndl) (a : Nat) (v : Word) : (writeOffset s d a v).p = s.p := rfl
@[simp] theorem writeOffset_pq (d : Fin cfg.ndl) (a : Nat) (v : Word) : (writeOffset s d a v).pq = s.pq := rfl
@[simp] theorem writeOffset_dl (d : Fin cfg.ndl) (a : Nat) (v : Word) :
    (writeOffset s d a v).dl = (memWrite s d (dlIndex s d a) v).dl := rfl
@[simp] theorem writeOffset_op (d : Fin cfg.ndl) (a : Nat) (v : Word) : (writeOffset s d a v).op = s.op := rfl
@[simp] theorem writeOffset_bq (d : Fin cfg.ndl) (a : Nat) (v : Word) : (writeOffset s d a v).bq = s.bq := rfl
@[simp] theorem writeOffset_lm (d : Fin cfg.ndl) (a : Nat) (v : Word) : (writeOffset s d a v).lm = s.lm := rfl
@[simp] theorem writeOffset_env (d : Fin cfg.ndl) (a : Nat) (v : Word) : (writeOffset s d a v).env = s.env := rfl
@[simp] theorem writeOffset_rv (d : Fin cfg.ndl) (a : Nat) (v : Word) : (writeOffset s d a v).rv = s.rv := rfl
@[simp] theorem writeOffset_pc (d : Fin cfg.ndl) (a : Nat) (v : Word) : (writeOffset s d a v).pc = s.pc := rfl
@[simp] theorem writeOffset_input (d : Fin cfg.ndl) (a : Nat) (v : Word) :
    (writeOffset s d a v).input = s.input := rfl

/-! ## `setCursor`: moving a cursor -/

@[simp] theorem setCursor_x (d : Fin cfg.ndl) (v : Word) : (setCursor s d v).x = s.x := rfl
@[simp] theorem setCursor_status (d : Fin cfg.ndl) (v : Word) : (setCursor s d v).status = s.status := rfl
@[simp] theorem setCursor_errinfo (d : Fin cfg.ndl) (v : Word) : (setCursor s d v).errinfo = s.errinfo := rfl
@[simp] theorem setCursor_fs (d : Fin cfg.ndl) (v : Word) : (setCursor s d v).fs = s.fs := rfl
@[simp] theorem setCursor_fsf (d : Fin cfg.ndl) (v : Word) : (setCursor s d v).fsf = s.fsf := rfl
@[simp] theorem setCursor_ctrlDiv (d : Fin cfg.ndl) (v : Word) : (setCursor s d v).ctrlDiv = s.ctrlDiv := rfl
@[simp] theorem setCursor_ctrlCnt (d : Fin cfg.ndl) (v : Word) : (setCursor s d v).ctrlCnt = s.ctrlCnt := rfl
@[simp] theorem setCursor_k (d : Fin cfg.ndl) (v : Word) : (setCursor s d v).k = s.k := rfl
@[simp] theorem setCursor_p (d : Fin cfg.ndl) (v : Word) : (setCursor s d v).p = s.p := rfl
@[simp] theorem setCursor_pq (d : Fin cfg.ndl) (v : Word) : (setCursor s d v).pq = s.pq := rfl
@[simp] theorem setCursor_dl (d : Fin cfg.ndl) (v : Word) :
    (setCursor s d v).dl = s.dl.set d { s.dl[d] with dp := v &&& capMask cfg d } := rfl
@[simp] theorem setCursor_op (d : Fin cfg.ndl) (v : Word) : (setCursor s d v).op = s.op := rfl
@[simp] theorem setCursor_bq (d : Fin cfg.ndl) (v : Word) : (setCursor s d v).bq = s.bq := rfl
@[simp] theorem setCursor_lm (d : Fin cfg.ndl) (v : Word) : (setCursor s d v).lm = s.lm := rfl
@[simp] theorem setCursor_env (d : Fin cfg.ndl) (v : Word) : (setCursor s d v).env = s.env := rfl
@[simp] theorem setCursor_rv (d : Fin cfg.ndl) (v : Word) : (setCursor s d v).rv = s.rv := rfl
@[simp] theorem setCursor_pc (d : Fin cfg.ndl) (v : Word) : (setCursor s d v).pc = s.pc := rfl
@[simp] theorem setCursor_input (d : Fin cfg.ndl) (v : Word) : (setCursor s d v).input = s.input := rfl

/-! ## `rotate`: rotating a line -/

@[simp] theorem rotate_x (d : Fin cfg.ndl) : (rotate s d).x = s.x := rfl
@[simp] theorem rotate_status (d : Fin cfg.ndl) : (rotate s d).status = s.status := rfl
@[simp] theorem rotate_errinfo (d : Fin cfg.ndl) : (rotate s d).errinfo = s.errinfo := rfl
@[simp] theorem rotate_fs (d : Fin cfg.ndl) : (rotate s d).fs = s.fs := rfl
@[simp] theorem rotate_fsf (d : Fin cfg.ndl) : (rotate s d).fsf = s.fsf := rfl
@[simp] theorem rotate_ctrlDiv (d : Fin cfg.ndl) : (rotate s d).ctrlDiv = s.ctrlDiv := rfl
@[simp] theorem rotate_ctrlCnt (d : Fin cfg.ndl) : (rotate s d).ctrlCnt = s.ctrlCnt := rfl
@[simp] theorem rotate_k (d : Fin cfg.ndl) : (rotate s d).k = s.k := rfl
@[simp] theorem rotate_p (d : Fin cfg.ndl) : (rotate s d).p = s.p := rfl
@[simp] theorem rotate_pq (d : Fin cfg.ndl) : (rotate s d).pq = s.pq := rfl
@[simp] theorem rotate_dl (d : Fin cfg.ndl) : (rotate s d).dl = (setCursor s d (s.dl[d].dp - 1#32)).dl := rfl
@[simp] theorem rotate_op (d : Fin cfg.ndl) : (rotate s d).op = s.op := rfl
@[simp] theorem rotate_bq (d : Fin cfg.ndl) : (rotate s d).bq = s.bq := rfl
@[simp] theorem rotate_lm (d : Fin cfg.ndl) : (rotate s d).lm = s.lm := rfl
@[simp] theorem rotate_env (d : Fin cfg.ndl) : (rotate s d).env = s.env := rfl
@[simp] theorem rotate_rv (d : Fin cfg.ndl) : (rotate s d).rv = s.rv := rfl
@[simp] theorem rotate_pc (d : Fin cfg.ndl) : (rotate s d).pc = s.pc := rfl
@[simp] theorem rotate_input (d : Fin cfg.ndl) : (rotate s d).input = s.input := rfl

/-! ## `clearLine`: clearing a line -/

@[simp] theorem clearLine_x (d : Fin cfg.ndl) : (clearLine s d).x = s.x := rfl
@[simp] theorem clearLine_status (d : Fin cfg.ndl) : (clearLine s d).status = s.status := rfl
@[simp] theorem clearLine_errinfo (d : Fin cfg.ndl) : (clearLine s d).errinfo = s.errinfo := rfl
@[simp] theorem clearLine_fs (d : Fin cfg.ndl) : (clearLine s d).fs = s.fs := rfl
@[simp] theorem clearLine_fsf (d : Fin cfg.ndl) : (clearLine s d).fsf = s.fsf := rfl
@[simp] theorem clearLine_ctrlDiv (d : Fin cfg.ndl) : (clearLine s d).ctrlDiv = s.ctrlDiv := rfl
@[simp] theorem clearLine_ctrlCnt (d : Fin cfg.ndl) : (clearLine s d).ctrlCnt = s.ctrlCnt := rfl
@[simp] theorem clearLine_k (d : Fin cfg.ndl) : (clearLine s d).k = s.k := rfl
@[simp] theorem clearLine_p (d : Fin cfg.ndl) : (clearLine s d).p = s.p := rfl
@[simp] theorem clearLine_pq (d : Fin cfg.ndl) : (clearLine s d).pq = s.pq := rfl
@[simp] theorem clearLine_dl (d : Fin cfg.ndl) : (clearLine s d).dl = s.dl.set d { dp := 0#32, buf := [] } := rfl
@[simp] theorem clearLine_op (d : Fin cfg.ndl) : (clearLine s d).op = s.op := rfl
@[simp] theorem clearLine_bq (d : Fin cfg.ndl) : (clearLine s d).bq = s.bq := rfl
@[simp] theorem clearLine_lm (d : Fin cfg.ndl) : (clearLine s d).lm = s.lm := rfl
@[simp] theorem clearLine_env (d : Fin cfg.ndl) : (clearLine s d).env = s.env := rfl
@[simp] theorem clearLine_rv (d : Fin cfg.ndl) : (clearLine s d).rv = s.rv := rfl
@[simp] theorem clearLine_pc (d : Fin cfg.ndl) : (clearLine s d).pc = s.pc := rfl
@[simp] theorem clearLine_input (d : Fin cfg.ndl) : (clearLine s d).input = s.input := rfl

/-! ## `setOpZ1`: advancing a one-pole history -/

@[simp] theorem setOpZ1_x (u : Fin cfg.nop) (z : F32) : (setOpZ1 s u z).x = s.x := rfl
@[simp] theorem setOpZ1_status (u : Fin cfg.nop) (z : F32) : (setOpZ1 s u z).status = s.status := rfl
@[simp] theorem setOpZ1_errinfo (u : Fin cfg.nop) (z : F32) : (setOpZ1 s u z).errinfo = s.errinfo := rfl
@[simp] theorem setOpZ1_fs (u : Fin cfg.nop) (z : F32) : (setOpZ1 s u z).fs = s.fs := rfl
@[simp] theorem setOpZ1_fsf (u : Fin cfg.nop) (z : F32) : (setOpZ1 s u z).fsf = s.fsf := rfl
@[simp] theorem setOpZ1_ctrlDiv (u : Fin cfg.nop) (z : F32) : (setOpZ1 s u z).ctrlDiv = s.ctrlDiv := rfl
@[simp] theorem setOpZ1_ctrlCnt (u : Fin cfg.nop) (z : F32) : (setOpZ1 s u z).ctrlCnt = s.ctrlCnt := rfl
@[simp] theorem setOpZ1_k (u : Fin cfg.nop) (z : F32) : (setOpZ1 s u z).k = s.k := rfl
@[simp] theorem setOpZ1_p (u : Fin cfg.nop) (z : F32) : (setOpZ1 s u z).p = s.p := rfl
@[simp] theorem setOpZ1_pq (u : Fin cfg.nop) (z : F32) : (setOpZ1 s u z).pq = s.pq := rfl
@[simp] theorem setOpZ1_dl (u : Fin cfg.nop) (z : F32) : (setOpZ1 s u z).dl = s.dl := rfl
@[simp] theorem setOpZ1_op (u : Fin cfg.nop) (z : F32) :
    (setOpZ1 s u z).op = s.op.set u { s.op[u] with z1 := z } := rfl
@[simp] theorem setOpZ1_bq (u : Fin cfg.nop) (z : F32) : (setOpZ1 s u z).bq = s.bq := rfl
@[simp] theorem setOpZ1_lm (u : Fin cfg.nop) (z : F32) : (setOpZ1 s u z).lm = s.lm := rfl
@[simp] theorem setOpZ1_env (u : Fin cfg.nop) (z : F32) : (setOpZ1 s u z).env = s.env := rfl
@[simp] theorem setOpZ1_rv (u : Fin cfg.nop) (z : F32) : (setOpZ1 s u z).rv = s.rv := rfl
@[simp] theorem setOpZ1_pc (u : Fin cfg.nop) (z : F32) : (setOpZ1 s u z).pc = s.pc := rfl
@[simp] theorem setOpZ1_input (u : Fin cfg.nop) (z : F32) : (setOpZ1 s u z).input = s.input := rfl

/-! ## `setCutoff`: setting a one-pole cutoff -/

@[simp] theorem setCutoff_x (u : Fin cfg.nop) (fc : F32) : (setCutoff s u fc).x = s.x := rfl
@[simp] theorem setCutoff_status (u : Fin cfg.nop) (fc : F32) : (setCutoff s u fc).status = s.status := rfl
@[simp] theorem setCutoff_errinfo (u : Fin cfg.nop) (fc : F32) : (setCutoff s u fc).errinfo = s.errinfo := rfl
@[simp] theorem setCutoff_fs (u : Fin cfg.nop) (fc : F32) : (setCutoff s u fc).fs = s.fs := rfl
@[simp] theorem setCutoff_fsf (u : Fin cfg.nop) (fc : F32) : (setCutoff s u fc).fsf = s.fsf := rfl
@[simp] theorem setCutoff_ctrlDiv (u : Fin cfg.nop) (fc : F32) : (setCutoff s u fc).ctrlDiv = s.ctrlDiv := rfl
@[simp] theorem setCutoff_ctrlCnt (u : Fin cfg.nop) (fc : F32) : (setCutoff s u fc).ctrlCnt = s.ctrlCnt := rfl
@[simp] theorem setCutoff_k (u : Fin cfg.nop) (fc : F32) : (setCutoff s u fc).k = s.k := rfl
@[simp] theorem setCutoff_p (u : Fin cfg.nop) (fc : F32) : (setCutoff s u fc).p = s.p := rfl
@[simp] theorem setCutoff_pq (u : Fin cfg.nop) (fc : F32) : (setCutoff s u fc).pq = s.pq := rfl
@[simp] theorem setCutoff_dl (u : Fin cfg.nop) (fc : F32) : (setCutoff s u fc).dl = s.dl := rfl
@[simp] theorem setCutoff_op (u : Fin cfg.nop) (fc : F32) :
    (setCutoff s u fc).op = s.op.set u { s.op[u] with fc := fc, a0 := onePoleA0 cfg fc s.fsf } := rfl
@[simp] theorem setCutoff_bq (u : Fin cfg.nop) (fc : F32) : (setCutoff s u fc).bq = s.bq := rfl
@[simp] theorem setCutoff_lm (u : Fin cfg.nop) (fc : F32) : (setCutoff s u fc).lm = s.lm := rfl
@[simp] theorem setCutoff_env (u : Fin cfg.nop) (fc : F32) : (setCutoff s u fc).env = s.env := rfl
@[simp] theorem setCutoff_rv (u : Fin cfg.nop) (fc : F32) : (setCutoff s u fc).rv = s.rv := rfl
@[simp] theorem setCutoff_pc (u : Fin cfg.nop) (fc : F32) : (setCutoff s u fc).pc = s.pc := rfl
@[simp] theorem setCutoff_input (u : Fin cfg.nop) (fc : F32) : (setCutoff s u fc).input = s.input := rfl

/-! ## `setOp`: replacing a one-pole unit -/

@[simp] theorem setOp_x (u : Fin cfg.nop) (o : OnePole) : (setOp s u o).x = s.x := rfl
@[simp] theorem setOp_status (u : Fin cfg.nop) (o : OnePole) : (setOp s u o).status = s.status := rfl
@[simp] theorem setOp_errinfo (u : Fin cfg.nop) (o : OnePole) : (setOp s u o).errinfo = s.errinfo := rfl
@[simp] theorem setOp_fs (u : Fin cfg.nop) (o : OnePole) : (setOp s u o).fs = s.fs := rfl
@[simp] theorem setOp_fsf (u : Fin cfg.nop) (o : OnePole) : (setOp s u o).fsf = s.fsf := rfl
@[simp] theorem setOp_ctrlDiv (u : Fin cfg.nop) (o : OnePole) : (setOp s u o).ctrlDiv = s.ctrlDiv := rfl
@[simp] theorem setOp_ctrlCnt (u : Fin cfg.nop) (o : OnePole) : (setOp s u o).ctrlCnt = s.ctrlCnt := rfl
@[simp] theorem setOp_k (u : Fin cfg.nop) (o : OnePole) : (setOp s u o).k = s.k := rfl
@[simp] theorem setOp_p (u : Fin cfg.nop) (o : OnePole) : (setOp s u o).p = s.p := rfl
@[simp] theorem setOp_pq (u : Fin cfg.nop) (o : OnePole) : (setOp s u o).pq = s.pq := rfl
@[simp] theorem setOp_dl (u : Fin cfg.nop) (o : OnePole) : (setOp s u o).dl = s.dl := rfl
@[simp] theorem setOp_op (u : Fin cfg.nop) (o : OnePole) : (setOp s u o).op = s.op.set u o := rfl
@[simp] theorem setOp_bq (u : Fin cfg.nop) (o : OnePole) : (setOp s u o).bq = s.bq := rfl
@[simp] theorem setOp_lm (u : Fin cfg.nop) (o : OnePole) : (setOp s u o).lm = s.lm := rfl
@[simp] theorem setOp_env (u : Fin cfg.nop) (o : OnePole) : (setOp s u o).env = s.env := rfl
@[simp] theorem setOp_rv (u : Fin cfg.nop) (o : OnePole) : (setOp s u o).rv = s.rv := rfl
@[simp] theorem setOp_pc (u : Fin cfg.nop) (o : OnePole) : (setOp s u o).pc = s.pc := rfl
@[simp] theorem setOp_input (u : Fin cfg.nop) (o : OnePole) : (setOp s u o).input = s.input := rfl

/-! ## `setBq`: replacing a biquad unit -/

@[simp] theorem setBq_x (u : Fin cfg.nbq) (b : Biquad) : (setBq s u b).x = s.x := rfl
@[simp] theorem setBq_status (u : Fin cfg.nbq) (b : Biquad) : (setBq s u b).status = s.status := rfl
@[simp] theorem setBq_errinfo (u : Fin cfg.nbq) (b : Biquad) : (setBq s u b).errinfo = s.errinfo := rfl
@[simp] theorem setBq_fs (u : Fin cfg.nbq) (b : Biquad) : (setBq s u b).fs = s.fs := rfl
@[simp] theorem setBq_fsf (u : Fin cfg.nbq) (b : Biquad) : (setBq s u b).fsf = s.fsf := rfl
@[simp] theorem setBq_ctrlDiv (u : Fin cfg.nbq) (b : Biquad) : (setBq s u b).ctrlDiv = s.ctrlDiv := rfl
@[simp] theorem setBq_ctrlCnt (u : Fin cfg.nbq) (b : Biquad) : (setBq s u b).ctrlCnt = s.ctrlCnt := rfl
@[simp] theorem setBq_k (u : Fin cfg.nbq) (b : Biquad) : (setBq s u b).k = s.k := rfl
@[simp] theorem setBq_p (u : Fin cfg.nbq) (b : Biquad) : (setBq s u b).p = s.p := rfl
@[simp] theorem setBq_pq (u : Fin cfg.nbq) (b : Biquad) : (setBq s u b).pq = s.pq := rfl
@[simp] theorem setBq_dl (u : Fin cfg.nbq) (b : Biquad) : (setBq s u b).dl = s.dl := rfl
@[simp] theorem setBq_op (u : Fin cfg.nbq) (b : Biquad) : (setBq s u b).op = s.op := rfl
@[simp] theorem setBq_bq (u : Fin cfg.nbq) (b : Biquad) : (setBq s u b).bq = s.bq.set u b := rfl
@[simp] theorem setBq_lm (u : Fin cfg.nbq) (b : Biquad) : (setBq s u b).lm = s.lm := rfl
@[simp] theorem setBq_env (u : Fin cfg.nbq) (b : Biquad) : (setBq s u b).env = s.env := rfl
@[simp] theorem setBq_rv (u : Fin cfg.nbq) (b : Biquad) : (setBq s u b).rv = s.rv := rfl
@[simp] theorem setBq_pc (u : Fin cfg.nbq) (b : Biquad) : (setBq s u b).pc = s.pc := rfl
@[simp] theorem setBq_input (u : Fin cfg.nbq) (b : Biquad) : (setBq s u b).input = s.input := rfl

/-! ## `setEnv`: replacing an envelope unit -/

@[simp] theorem setEnv_x (e : Fin cfg.nenv) (v : Envelope) : (setEnv s e v).x = s.x := rfl
@[simp] theorem setEnv_status (e : Fin cfg.nenv) (v : Envelope) : (setEnv s e v).status = s.status := rfl
@[simp] theorem setEnv_errinfo (e : Fin cfg.nenv) (v : Envelope) : (setEnv s e v).errinfo = s.errinfo := rfl
@[simp] theorem setEnv_fs (e : Fin cfg.nenv) (v : Envelope) : (setEnv s e v).fs = s.fs := rfl
@[simp] theorem setEnv_fsf (e : Fin cfg.nenv) (v : Envelope) : (setEnv s e v).fsf = s.fsf := rfl
@[simp] theorem setEnv_ctrlDiv (e : Fin cfg.nenv) (v : Envelope) : (setEnv s e v).ctrlDiv = s.ctrlDiv := rfl
@[simp] theorem setEnv_ctrlCnt (e : Fin cfg.nenv) (v : Envelope) : (setEnv s e v).ctrlCnt = s.ctrlCnt := rfl
@[simp] theorem setEnv_k (e : Fin cfg.nenv) (v : Envelope) : (setEnv s e v).k = s.k := rfl
@[simp] theorem setEnv_p (e : Fin cfg.nenv) (v : Envelope) : (setEnv s e v).p = s.p := rfl
@[simp] theorem setEnv_pq (e : Fin cfg.nenv) (v : Envelope) : (setEnv s e v).pq = s.pq := rfl
@[simp] theorem setEnv_dl (e : Fin cfg.nenv) (v : Envelope) : (setEnv s e v).dl = s.dl := rfl
@[simp] theorem setEnv_op (e : Fin cfg.nenv) (v : Envelope) : (setEnv s e v).op = s.op := rfl
@[simp] theorem setEnv_bq (e : Fin cfg.nenv) (v : Envelope) : (setEnv s e v).bq = s.bq := rfl
@[simp] theorem setEnv_lm (e : Fin cfg.nenv) (v : Envelope) : (setEnv s e v).lm = s.lm := rfl
@[simp] theorem setEnv_env (e : Fin cfg.nenv) (v : Envelope) : (setEnv s e v).env = s.env.set e v := rfl
@[simp] theorem setEnv_rv (e : Fin cfg.nenv) (v : Envelope) : (setEnv s e v).rv = s.rv := rfl
@[simp] theorem setEnv_pc (e : Fin cfg.nenv) (v : Envelope) : (setEnv s e v).pc = s.pc := rfl
@[simp] theorem setEnv_input (e : Fin cfg.nenv) (v : Envelope) : (setEnv s e v).input = s.input := rfl

/-! ## `setLm`: replacing a level meter -/

@[simp] theorem setLm_x (m : Fin cfg.nlm) (v : Meter cfg) : (setLm s m v).x = s.x := rfl
@[simp] theorem setLm_status (m : Fin cfg.nlm) (v : Meter cfg) : (setLm s m v).status = s.status := rfl
@[simp] theorem setLm_errinfo (m : Fin cfg.nlm) (v : Meter cfg) : (setLm s m v).errinfo = s.errinfo := rfl
@[simp] theorem setLm_fs (m : Fin cfg.nlm) (v : Meter cfg) : (setLm s m v).fs = s.fs := rfl
@[simp] theorem setLm_fsf (m : Fin cfg.nlm) (v : Meter cfg) : (setLm s m v).fsf = s.fsf := rfl
@[simp] theorem setLm_ctrlDiv (m : Fin cfg.nlm) (v : Meter cfg) : (setLm s m v).ctrlDiv = s.ctrlDiv := rfl
@[simp] theorem setLm_ctrlCnt (m : Fin cfg.nlm) (v : Meter cfg) : (setLm s m v).ctrlCnt = s.ctrlCnt := rfl
@[simp] theorem setLm_k (m : Fin cfg.nlm) (v : Meter cfg) : (setLm s m v).k = s.k := rfl
@[simp] theorem setLm_p (m : Fin cfg.nlm) (v : Meter cfg) : (setLm s m v).p = s.p := rfl
@[simp] theorem setLm_pq (m : Fin cfg.nlm) (v : Meter cfg) : (setLm s m v).pq = s.pq := rfl
@[simp] theorem setLm_dl (m : Fin cfg.nlm) (v : Meter cfg) : (setLm s m v).dl = s.dl := rfl
@[simp] theorem setLm_op (m : Fin cfg.nlm) (v : Meter cfg) : (setLm s m v).op = s.op := rfl
@[simp] theorem setLm_bq (m : Fin cfg.nlm) (v : Meter cfg) : (setLm s m v).bq = s.bq := rfl
@[simp] theorem setLm_lm (m : Fin cfg.nlm) (v : Meter cfg) : (setLm s m v).lm = s.lm.set m v := rfl
@[simp] theorem setLm_env (m : Fin cfg.nlm) (v : Meter cfg) : (setLm s m v).env = s.env := rfl
@[simp] theorem setLm_rv (m : Fin cfg.nlm) (v : Meter cfg) : (setLm s m v).rv = s.rv := rfl
@[simp] theorem setLm_pc (m : Fin cfg.nlm) (v : Meter cfg) : (setLm s m v).pc = s.pc := rfl
@[simp] theorem setLm_input (m : Fin cfg.nlm) (v : Meter cfg) : (setLm s m v).input = s.input := rfl

/-! ## `uiWrite`: a mailbox store -/

@[simp] theorem uiWrite_x (q : Fin Config.NP) (v : Word) : (uiWrite s q v).x = s.x := rfl
@[simp] theorem uiWrite_status (q : Fin Config.NP) (v : Word) : (uiWrite s q v).status = s.status := rfl
@[simp] theorem uiWrite_errinfo (q : Fin Config.NP) (v : Word) : (uiWrite s q v).errinfo = s.errinfo := rfl
@[simp] theorem uiWrite_fs (q : Fin Config.NP) (v : Word) : (uiWrite s q v).fs = s.fs := rfl
@[simp] theorem uiWrite_fsf (q : Fin Config.NP) (v : Word) : (uiWrite s q v).fsf = s.fsf := rfl
@[simp] theorem uiWrite_ctrlDiv (q : Fin Config.NP) (v : Word) : (uiWrite s q v).ctrlDiv = s.ctrlDiv := rfl
@[simp] theorem uiWrite_ctrlCnt (q : Fin Config.NP) (v : Word) : (uiWrite s q v).ctrlCnt = s.ctrlCnt := rfl
@[simp] theorem uiWrite_k (q : Fin Config.NP) (v : Word) : (uiWrite s q v).k = s.k := rfl
@[simp] theorem uiWrite_p (q : Fin Config.NP) (v : Word) : (uiWrite s q v).p = s.p := rfl
@[simp] theorem uiWrite_pq (q : Fin Config.NP) (v : Word) : (uiWrite s q v).pq = s.pq.set q (s.pq[q] ++ [v]) := rfl
@[simp] theorem uiWrite_dl (q : Fin Config.NP) (v : Word) : (uiWrite s q v).dl = s.dl := rfl
@[simp] theorem uiWrite_op (q : Fin Config.NP) (v : Word) : (uiWrite s q v).op = s.op := rfl
@[simp] theorem uiWrite_bq (q : Fin Config.NP) (v : Word) : (uiWrite s q v).bq = s.bq := rfl
@[simp] theorem uiWrite_lm (q : Fin Config.NP) (v : Word) : (uiWrite s q v).lm = s.lm := rfl
@[simp] theorem uiWrite_env (q : Fin Config.NP) (v : Word) : (uiWrite s q v).env = s.env := rfl
@[simp] theorem uiWrite_rv (q : Fin Config.NP) (v : Word) : (uiWrite s q v).rv = s.rv := rfl
@[simp] theorem uiWrite_pc (q : Fin Config.NP) (v : Word) : (uiWrite s q v).pc = s.pc := rfl
@[simp] theorem uiWrite_input (q : Fin Config.NP) (v : Word) : (uiWrite s q v).input = s.input := rfl

end Sys2Proof.Machine
end

