-- ==== Sys2Proof/Laws/Memory.lean ====
section
/-! SUPPORT. The laws of delay memory: reading after writing, the other cells, and the canonical form that every memory
operation keeps (spec/20_memory.md R81, R82). -/

namespace Sys2Proof.Machine

variable {cfg : Params}

/-! ## Lists of cells -/

@[simp] theorem Memory.read_nil (a : Nat) : Memory.read [] a = Memory.blank := rfl

@[simp] theorem Memory.wfFrom_nil (cap lo : Nat) : Memory.wfFrom cap lo [] = true := rfl

theorem Memory.wfFrom_cons (cap lo b : Nat) (v : Word) (m : Memory) :
    Memory.wfFrom cap lo ((b, v) :: m) = true ↔
      lo ≤ b ∧ b < cap ∧ v ≠ Memory.blank ∧ Memory.wfFrom cap (b + 1) m = true := by
  simp [Memory.wfFrom, and_assoc]

/-- A canonical list from a bound on is one from any smaller bound. -/
theorem Memory.wfFrom_mono {cap lo lo' : Nat} {m : Memory} (h : Memory.wfFrom cap lo m = true) (hle : lo' ≤ lo) :
    Memory.wfFrom cap lo' m = true := by
  cases m with
  | nil => rfl
  | cons c m =>
    obtain ⟨b, v⟩ := c
    rw [Memory.wfFrom_cons] at h ⊢
    exact ⟨hle.trans h.1, h.2⟩

/-- Below its bound a canonical list reads blank. -/
theorem Memory.read_below {cap lo a : Nat} {m : Memory} (h : Memory.wfFrom cap lo m = true) (ha : a < lo) :
    Memory.read m a = Memory.blank := by
  induction m generalizing lo with
  | nil => rfl
  | cons c m ih =>
    obtain ⟨b, v⟩ := c
    rw [Memory.wfFrom_cons] at h
    simp only [Memory.read]
    rw [if_neg (by omega)]
    exact ih h.2.2.2 (by omega)

/-- Reading another cell after a write gives what it gave before, for any list. -/
theorem Memory.read_write_of_ne (m : Memory) {a b : Nat} (v : Word) (h : b ≠ a) :
    Memory.read (Memory.write m a v) b = Memory.read m b := by
  induction m with
  | nil =>
    simp only [Memory.write]
    split
    · rfl
    · simp [Memory.read, Ne.symm h]
  | cons c m ih =>
    obtain ⟨c, w⟩ := c
    simp only [Memory.write]
    split
    · simp only [Memory.read, ih]
    · split
      · subst_vars
        split <;> simp [Memory.read, Ne.symm h]
      · split <;> simp [Memory.read, Ne.symm h]

/-- Reading a cell of a canonical list after writing it gives the value written. -/
theorem Memory.read_write_same {cap lo : Nat} {m : Memory} (h : Memory.wfFrom cap lo m = true) (a : Nat) (v : Word) :
    Memory.read (Memory.write m a v) a = v := by
  induction m generalizing lo with
  | nil =>
    simp only [Memory.write]
    split
    · subst_vars; rfl
    · simp [Memory.read]
  | cons c m ih =>
    obtain ⟨c, w⟩ := c
    rw [Memory.wfFrom_cons] at h
    simp only [Memory.write]
    split
    · rename_i hlt
      simp only [Memory.read]
      rw [if_neg (by omega)]
      exact ih h.2.2.2
    · split
      · subst_vars
        split
        · subst_vars
          exact Memory.read_below h.2.2.2 (by omega)
        · simp [Memory.read]
      · split
        · subst_vars
          simp only [Memory.read]
          rw [if_neg (by omega)]
          exact Memory.read_below h.2.2.2 (by omega)
        · simp [Memory.read]

/-- Writing inside the capacity keeps the canonical form. -/
theorem Memory.wfFrom_write {cap lo a : Nat} {m : Memory} (h : Memory.wfFrom cap lo m = true) (hlo : lo ≤ a)
    (ha : a < cap) (v : Word) : Memory.wfFrom cap lo (Memory.write m a v) = true := by
  induction m generalizing lo with
  | nil =>
    simp only [Memory.write]
    split
    · rfl
    · rename_i hv
      exact (Memory.wfFrom_cons ..).2 ⟨hlo, ha, hv, rfl⟩
  | cons c m ih =>
    obtain ⟨b, w⟩ := c
    rw [Memory.wfFrom_cons] at h
    obtain ⟨h1, h2, h3, h4⟩ := h
    simp only [Memory.write]
    split
    · rename_i hlt
      exact (Memory.wfFrom_cons ..).2 ⟨h1, h2, h3, ih h4 (by omega)⟩
    · split
      · subst_vars
        split
        · exact Memory.wfFrom_mono h4 (by omega)
        · rename_i hv
          exact (Memory.wfFrom_cons ..).2 ⟨hlo, ha, hv, h4⟩
      · split
        · exact (Memory.wfFrom_cons ..).2 ⟨h1, h2, h3, h4⟩
        · rename_i hv
          refine (Memory.wfFrom_cons ..).2 ⟨hlo, ha, hv, (Memory.wfFrom_cons ..).2 ⟨by omega, h2, h3, h4⟩⟩

theorem Memory.wf_nil (cap : Nat) : Memory.wf cap [] = true := rfl

theorem Memory.wf_write {cap a : Nat} {m : Memory} (h : Memory.wf cap m = true) (ha : a < cap) (v : Word) :
    Memory.wf cap (Memory.write m a v) = true := Memory.wfFrom_write h (Nat.zero_le a) ha v

/-! ## Indices -/

/-- Masking with the capacity less one is the remainder by the capacity (R18). -/
theorem and_cap_sub_one (d : Fin cfg.ndl) (n : Nat) : n &&& (cfg.cap d - 1) = n % cfg.cap d :=
  Nat.and_two_pow_sub_one_eq_mod n (cfg.dlLog2.getD d.val 0)

theorem cap_pos (d : Fin cfg.ndl) : 0 < cfg.cap d := Nat.two_pow_pos _

theorem dlIndex_eq_mod (s : State cfg) (d : Fin cfg.ndl) (off : Nat) :
    dlIndex s d off = (s.dl[d].dp.toNat + off) % cfg.cap d := and_cap_sub_one ..

theorem dlIndex_lt_cap (s : State cfg) (d : Fin cfg.ndl) (off : Nat) : dlIndex s d off < cfg.cap d := by
  rw [dlIndex_eq_mod]
  exact Nat.mod_lt _ (cap_pos d)

/-- A capacity divides 2^32, so wrapping 32-bit addition gives the same index (R18). -/
theorem cap_dvd_word (d : Fin cfg.ndl) : cfg.cap d ∣ 2 ^ 32 :=
  Nat.pow_dvd_pow 2 (by have := cfg.dlLog2_bounds d; omega)

theorem capMask_toNat (d : Fin cfg.ndl) : (capMask cfg d).toNat = cfg.cap d - 1 := by
  have := cfg.cap_bounds d
  simp only [capMask, BitVec.toNat_ofNat]
  omega

/-- The masked word is the remainder by the capacity (spec/10_state.md R73). -/
theorem and_capMask_toNat (d : Fin cfg.ndl) (v : Word) : (v &&& capMask cfg d).toNat = v.toNat % cfg.cap d := by
  rw [BitVec.toNat_and, capMask_toNat, and_cap_sub_one]

/-! ## Lines of the state -/

theorem memRead_memWrite_other_line (s : State cfg) {d e : Fin cfg.ndl} (a b : Nat) (v : Word) (h : e ≠ d) :
    memRead (memWrite s d a v) e b = memRead s e b := by
  simp only [memRead, memWrite_dl]
  rw [show (s.dl.set d { s.dl[d] with buf := Memory.write s.dl[d].buf a v })[e] = s.dl[e] from
    Vector.getElem_set_ne _ _ (fun he => h (Fin.ext he.symm))]

theorem memRead_memWrite_other_cell (s : State cfg) (d : Fin cfg.ndl) {a b : Nat} (v : Word) (h : b ≠ a) :
    memRead (memWrite s d a v) d b = memRead s d b := by
  simp [memRead, Memory.read_write_of_ne _ _ h]

theorem memRead_memWrite_same (s : State cfg) (d : Fin cfg.ndl) (a : Nat) (v : Word)
    (hwf : Memory.wf (cfg.cap d) s.dl[d].buf = true) : memRead (memWrite s d a v) d a = v := by
  simp only [memRead, memWrite_dl]
  rw [show (s.dl.set d { s.dl[d] with buf := Memory.write s.dl[d].buf a v })[d]
    = { s.dl[d] with buf := Memory.write s.dl[d].buf a v } from Vector.getElem_set_self _]
  exact Memory.read_write_same hwf a v

end Sys2Proof.Machine
end

