-- ==== Sys2Proof/Laws/Num.lean ====
section
/-! SUPPORT. What a clamp and a bracketed function can do: the laws behind the named properties of NUM
(spec/00_scope.md R27, R30). -/

namespace Sys2Proof.Laws

open Sys2Proof.Machine

theorem fle_trans {a b c : F32} (hab : fle a b = true) (hbc : fle b c = true) : fle a c = true := by
  simp only [fle, Bool.and_eq_true, decide_eq_true_eq] at *
  exact ⟨⟨hab.1.1, hbc.1.2⟩, le_trans hab.2 hbc.2⟩

theorem fle_refl_of_fle_left {a b : F32} (h : fle a b = true) : fle a a = true := by
  simp only [fle, Bool.and_eq_true, decide_eq_true_eq] at *
  exact ⟨⟨h.1.1, h.1.1⟩, le_refl _⟩

theorem fle_refl_of_fle_right {a b : F32} (h : fle a b = true) : fle b b = true := by
  simp only [fle, Bool.and_eq_true, decide_eq_true_eq] at *
  exact ⟨⟨h.1.2, h.1.2⟩, le_refl _⟩

theorem clampf_cases (v lo hi : F32) :
    (fle lo v = true ∧ fle v hi = true ∧ clampf v lo hi = v) ∨ clampf v lo hi = lo ∨ clampf v lo hi = hi := by
  unfold clampf fge
  by_cases h1 : fle lo v = true <;> by_cases h2 : fle v hi = true <;> simp [h1, h2]

theorem clampf_inRange {v lo hi : F32} (h : fle lo hi = true) : inRange lo hi (clampf v lo hi) := by
  rcases clampf_cases v lo hi with ⟨h1, h2, h3⟩ | h3 | h3 <;> rw [h3]
  · exact ⟨h1, h2⟩
  · exact ⟨fle_refl_of_fle_left h, h⟩
  · exact ⟨h, fle_refl_of_fle_right h⟩

theorem clampf_of_inRange {v lo hi : F32} (h : inRange lo hi v) : clampf v lo hi = v := by
  simp [clampf, fge, h.1, h.2]

theorem monotoneAt_inRange (raw : Nat → F32) (top p fuel base : Nat) {lo hi : F32} (h : fle lo hi = true) :
    inRange lo hi (monotoneAt raw top p fuel base lo hi) := by
  induction fuel generalizing base lo hi with
  | zero => exact clampf_inRange h
  | succ fuel ih =>
    have hm := clampf_inRange (v := raw (base + 2 ^ fuel)) h
    simp only [monotoneAt]
    split
    · exact ih base h
    · split
      · exact ⟨(ih base hm.1).1, fle_trans (ih base hm.1).2 hm.2⟩
      · exact ⟨fle_trans hm.1 (ih _ hm.2).1, (ih _ hm.2).2⟩

/-- A bracketed function is non-decreasing in its place. -/
theorem monotoneAt_mono (raw : Nat → F32) (top fuel base : Nat) {p q : Nat} {lo hi : F32} (h : fle lo hi = true)
    (hpq : p ≤ q) :
    fle (monotoneAt raw top p fuel base lo hi) (monotoneAt raw top q fuel base lo hi) = true := by
  induction fuel generalizing base lo hi with
  | zero => exact fle_refl_of_fle_left (clampf_inRange h).2
  | succ fuel ih =>
    have hm := clampf_inRange (v := raw (base + 2 ^ fuel)) h
    simp only [monotoneAt]
    split
    · exact ih base h
    · split <;> split
      · exact ih base hm.1
      · exact fle_trans (monotoneAt_inRange raw top p fuel base hm.1).2
          (monotoneAt_inRange raw top q fuel _ hm.2).1
      · omega
      · exact ih _ hm.2

/-- A raw function that is non-decreasing and in range over the places passes through bit for bit. -/
theorem monotoneAt_eq_raw (raw : Nat → F32) (top p fuel base : Nat) {lo hi : F32} (hp : base ≤ p)
    (hpf : p < base + 2 ^ fuel) (hpt : p ≤ top)
    (hr : ∀ i, base ≤ i → i ≤ top → i < base + 2 ^ fuel → inRange lo hi (raw i))
    (hmono : ∀ i j, base ≤ i → i ≤ j → j ≤ top → fle (raw i) (raw j) = true) :
    monotoneAt raw top p fuel base lo hi = raw p := by
  induction fuel generalizing base lo hi with
  | zero =>
    obtain rfl : p = base := by simp at hpf; omega
    exact clampf_of_inRange (hr p hp hpt (by simp))
  | succ fuel ih =>
    have hpos : 0 < 2 ^ fuel := Nat.two_pow_pos fuel
    rw [pow_succ] at hpf
    simp only [pow_succ] at hr
    simp only [monotoneAt]
    split
    · exact ih base hp (by omega) (fun i hi hit hif => hr i hi hit (by omega)) hmono
    · rename_i htop
      rw [clampf_of_inRange (hr (base + 2 ^ fuel) (by omega) (by omega) (by omega))]
      split
      · exact ih base hp (by omega)
          (fun i hi hit hif => ⟨(hr i hi hit (by omega)).1, hmono i _ hi (by omega) (by omega)⟩) hmono
      · exact ih _ (by omega) (by omega)
          (fun i hi hit hif => ⟨hmono _ i (by omega) hi hit, (hr i (by omega) hit (by omega)).2⟩)
          (fun i j hi => hmono i j (by omega))

theorem risingOn_inRange (raw : F32 → F32) (first last x : F32) {lo hi : F32} (h : fle lo hi = true) :
    inRange lo hi (risingOn raw first last lo hi x) := by
  unfold risingOn
  exact monotoneAt_inRange _ _ _ _ _ h

theorem risingOn_mono (raw : F32 → F32) (first last : F32) {lo hi x y : F32} (h : fle lo hi = true)
    (hxy : fmag x ≤ fmag y) : fle (risingOn raw first last lo hi x) (risingOn raw first last lo hi y) = true := by
  unfold risingOn
  exact monotoneAt_mono _ _ _ _ h hxy

theorem risingBelowZero_inRange (raw : F32 → F32) (x : F32) {lo hi : F32} (h : fle lo hi = true) :
    inRange lo hi (risingBelowZero raw lo hi x) := by
  unfold risingBelowZero
  exact monotoneAt_inRange _ _ _ _ _ h

theorem risingBelowZero_mono (raw : F32 → F32) {lo hi x y : F32} (h : fle lo hi = true) (hxy : fmag y ≤ fmag x) :
    fle (risingBelowZero raw lo hi x) (risingBelowZero raw lo hi y) = true := by
  unfold risingBelowZero
  exact monotoneAt_mono _ _ _ _ h (by omega)

/-! ## A NUM that the spec admits passes through

The laws of the places: a non-negative pattern is its magnitude bits. -/

theorem pack_fmag {x : F32} (h : fsign x = false) : pack false (fmag x) = x := by
  simp only [fsign, fmag, decide_eq_false_iff_not] at *
  apply BitVec.eq_of_toNat_eq
  simp only [pack, Bool.false_eq_true, if_false, BitVec.toNat_ofNat]
  omega

theorem fle_iff_of_nonneg {x y : F32} (hx : fsign x = false) (hy : fsign y = false) :
    fle x y = true ↔ isNaN x = false ∧ isNaN y = false ∧ fmag x ≤ fmag y := by
  simp [fle, forder, hx, hy, and_assoc]

theorem fsign_pack {m : Nat} (h : m < 0x80000000) : fsign (pack false m) = false := by
  simp only [fsign, pack, Bool.false_eq_true, if_false, BitVec.toNat_ofNat, decide_eq_false_iff_not]
  omega

theorem fmag_pack {m : Nat} (h : m < 0x80000000) : fmag (pack false m) = m := by
  simp only [fmag, pack, Bool.false_eq_true, if_false, BitVec.toNat_ofNat]
  omega

theorem fmag_lt (x : F32) : fmag x < 0x80000000 := Nat.mod_lt _ (by decide)

/-- A raw function that is non-decreasing and in range from `first` to `last` passes through bit for bit there. -/
theorem risingOn_eq_raw (raw : F32 → F32) {first last lo hi x : F32} (hf : fsign first = false)
    (hx : fsign x = false) (hl : fsign last = false) (h1 : fle first x = true) (h2 : fle x last = true)
    (hr : ∀ y, fle first y = true → fle y last = true → inRange lo hi (raw y))
    (hmono : ∀ y z, fle first y = true → fle y z = true → fle z last = true → fle (raw y) (raw z) = true) :
    risingOn raw first last lo hi x = raw x := by
  rw [fle_iff_of_nonneg hf hx] at h1
  rw [fle_iff_of_nonneg hx hl] at h2
  have hlast := fmag_lt last
  have place : ∀ i, i ≤ fmag last →
      fsign (pack false i) = false ∧ fmag (pack false i) = i ∧ isNaN (pack false i) = false := by
    intro i hi
    have hm := fmag_pack (m := i) (by omega)
    refine ⟨fsign_pack (by omega), hm, ?_⟩
    have hn := h2.2.1
    simp only [isNaN, decide_eq_false_iff_not, hm] at hn ⊢
    omega
  have fromFirst : ∀ i, fmag first ≤ i → i ≤ fmag last → fle first (pack false i) = true := fun i hi hil => by
    rw [fle_iff_of_nonneg hf (place i hil).1, (place i hil).2.1]
    exact ⟨h1.1, (place i hil).2.2, hi⟩
  have toLast : ∀ i, i ≤ fmag last → fle (pack false i) last = true := fun i hil => by
    rw [fle_iff_of_nonneg (place i hil).1 hl, (place i hil).2.1]
    exact ⟨(place i hil).2.2, h2.2.1, hil⟩
  have between : ∀ i j, i ≤ j → j ≤ fmag last → fle (pack false i) (pack false j) = true := fun i j hij hj => by
    rw [fle_iff_of_nonneg (place i (hij.trans hj)).1 (place j hj).1, (place i (hij.trans hj)).2.1, (place j hj).2.1]
    exact ⟨(place i (hij.trans hj)).2.2, (place j hj).2.2, hij⟩
  unfold risingOn
  rw [monotoneAt_eq_raw (atMag raw) _ _ _ _ h1.2.2 (by have := fmag_lt x; omega) h2.2.2
    (fun i hi hil _ => hr _ (fromFirst i hi hil) (toLast i hil))
    (fun i j hi hij hj => hmono _ _ (fromFirst i hi (hij.trans hj)) (between i j hij hj) (toLast j hj))]
  rw [atMag, pack_fmag hx]

/-- The named properties of NUM.tan (spec/00_scope.md R30) at a configuration. -/
structure TanProperties (cfg : Params) (tan : F32 → F32) : Prop where
  zero : tan fZero = fZero
  finite : ∀ x, fle fZero x = true → fle x (tanBound cfg) = true → isFinite (tan x) = true ∧ fle fZero (tan x) = true
  mono : ∀ x y, fle fZero x = true → fle x y = true → fle y (tanBound cfg) = true → fle (tan x) (tan y) = true
  pos : ∀ x, fle fTwoPowM16 x = true → fle x (tanBound cfg) = true → fle fTwoPowM17 (tan x) = true
  nan : ∀ x, isNaN x = true → isNaN (tan x) = true

theorem fle_maxFinite {v : F32} (h : isFinite v = true) : fle v fMaxFinite = true := by
  have hm : fmag v < infMag := of_decide_eq_true h
  have hn : isNaN v = false := decide_eq_false (by omega)
  have e : isNaN fMaxFinite = false ∧ forder fMaxFinite = 0x7F7FFFFF := by decide
  have ho : forder v ≤ 0x7F7FFFFF := by simp only [forder, infMag] at *; split <;> omega
  simp only [fle, hn, e.1, e.2, Bool.not_false, Bool.true_and, decide_eq_true_eq]
  exact ho

theorem fsign_of_positive {x : F32} (h : fle fZero x = true) (hz : isZero x = false) : fsign x = false := by
  have e : forder fZero = 0 := by decide
  have hm : fmag x ≠ 0 := of_decide_eq_false hz
  simp only [fle, e, Bool.and_eq_true, decide_eq_true_eq] at h
  cases hs : fsign x with
  | false => rfl
  | true => simp only [forder, hs, if_true] at h; omega

/-- A positive number below 0.5 is finite, not zero and without a sign. -/
theorem fraction_of_flt {x : F32} (h0 : flt fZero x = true) (h1 : flt x fHalf = true) :
    fsign x = false ∧ isNaN x = false ∧ isInf x = false ∧ isZero x = false := by
  have e : forder fZero = 0 ∧ forder fHalf = 0x3F000000 := by decide
  simp only [flt, e.1, e.2, Bool.and_eq_true, Bool.not_eq_true', decide_eq_true_eq] at h0 h1
  have hs : fsign x = false := by
    cases hs : fsign x with
    | false => rfl
    | true => simp only [forder, hs, if_true] at h0; omega
  simp only [forder, hs, Bool.false_eq_true, if_false] at h0 h1
  exact ⟨hs, h1.1.1, decide_eq_false (by simp only [infMag]; omega), decide_eq_false (by omega)⟩

/-- The range of the tangent's properties is not empty, and ends at a pattern without a sign. -/
theorem tanBound_nonneg (cfg : Params) : fle fZero (tanBound cfg) = true ∧ fsign (tanBound cfg) = false := by
  have h := cfg.ok
  simp only [RawParams.check, RawParams.boundsOk, Bool.and_eq_true] at h
  obtain ⟨⟨⟨⟨-, -⟩, hb⟩, -⟩, -⟩ := h
  have h0 : flt fZero cfg.fcrMax = true := by simp only [hb]
  have h1 : flt cfg.fcrMax fHalf = true := by simp only [hb]
  obtain ⟨hs, hn, hi, hz⟩ := fraction_of_flt h0 h1
  have e : fsign fPi = false ∧ isNaN fPi = false ∧ isInf fPi = false ∧ isZero fPi = false := by decide
  have eb : tanBound cfg = pack false (roundMag (funits fPi * funits cfg.fcrMax) (2 ^ 149)) := by
    simp only [tanBound, fmul, hs, hn, hi, hz, e, Bool.and_false, Bool.or_false, Bool.false_eq_true,
      if_false, bne_self_eq_false]
  have hm : roundMag (funits fPi * funits cfg.fcrMax) (2 ^ 149) ≤ infMag := Nat.min_le_right _ _
  simp only [infMag] at hm
  rw [eb]
  have hp := fmag_pack (m := roundMag (funits fPi * funits cfg.fcrMax) (2 ^ 149)) (by omega)
  have hsp := fsign_pack (m := roundMag (funits fPi * funits cfg.fcrMax) (2 ^ 149)) (by omega)
  refine ⟨(fle_iff_of_nonneg (by decide) hsp).2 ⟨by decide, ?_, ?_⟩, hsp⟩
  · simp only [isNaN, hp, infMag, decide_eq_false_iff_not]; omega
  · rw [hp, show fmag fZero = 0 from by decide]; omega

/-- A raw tangent that has the named properties at a configuration is NUM.tan there bit for bit: the model assumes no
more of it than they say. -/
theorem numTan_eq_raw (cfg : Params) (h : TanProperties cfg Config.rawTan) (x : F32) :
    numTan cfg x = Config.rawTan x := by
  have hb := tanBound_nonneg cfg
  have knee : fle fTwoPowM16 (tanBound cfg) = true → tanKnee = Config.rawTan fTwoPowM16 := fun hk =>
    clampf_of_inRange ⟨h.pos _ (by decide) hk, fle_maxFinite (h.finite _ (by decide) hk).1⟩
  have az : fle fZero fZero = true := by decide
  unfold numTan
  by_cases hn : isNaN x = true
  · rw [if_pos hn, asNaN, if_pos (h.nan x hn)]
  rw [if_neg hn]
  by_cases h0 : x = fZero
  · rw [if_pos h0, h0, h.zero]
  rw [if_neg h0]
  by_cases hz : isZero x = true
  · have hx : fle fZero x = true ∧ fle x fZero = true := by
      have hm : fmag x = 0 := of_decide_eq_true hz
      simp only [fle, forder, hm, Bool.not_eq_true] at hn ⊢
      simp only [hn]
      cases fsign x <;> decide
    rw [if_pos hz, clampf_of_inRange ⟨(h.finite x hx.1 (fle_trans hx.2 hb.1)).2, ?_⟩]
    rw [← h.zero]
    exact h.mono x fZero hx.1 hx.2 hb.1
  rw [if_neg hz]
  split
  · rename_i hr
    rw [Bool.and_eq_true] at hr
    have hs := fsign_of_positive hr.1 (Bool.eq_false_iff.2 hz)
    split
    · rename_i hk
      have hkb := fle_trans hk hr.2
      rw [knee hkb]
      exact risingOn_eq_raw _ (by decide) hs hb.2 hk hr.2
        (fun y h1 h2 => ⟨h.mono _ _ (by decide) h1 h2, fle_maxFinite (h.finite y (fle_trans (by decide) h1) h2).1⟩)
        (fun y z h1 h2 h3 => h.mono y z (fle_trans (by decide) h1) h2 h3)
    · rename_i hk
      split
      · rename_i hkb
        rw [knee hkb]
        refine risingOn_eq_raw _ (by decide) hs (by decide) hr.1 ?_
          (fun y h1 h2 => ⟨(h.finite y h1 (fle_trans h2 hkb)).2, h.mono y _ h1 h2 hkb⟩)
          (fun y z h1 h2 h3 => h.mono y z h1 h2 (fle_trans h3 hkb))
        have e : fsign fTwoPowM16 = false := by decide
        have en : isNaN fTwoPowM16 = false := by decide
        have hn' := Bool.eq_false_iff.2 hn
        simp only [fge] at hk
        rw [fle_iff_of_nonneg e hs] at hk
        rw [fle_iff_of_nonneg hs e]
        exact ⟨hn', en, Nat.le_of_lt (Nat.lt_of_not_le fun hh => hk ⟨en, hn', hh⟩)⟩
      · exact risingOn_eq_raw _ (by decide) hs hb.2 hr.1 hr.2
          (fun y h1 h2 => ⟨(h.finite y h1 h2).2, fle_maxFinite (h.finite y h1 h2).1⟩)
          (fun y z h1 h2 h3 => h.mono y z h1 h2 h3)
  · rfl

end Sys2Proof.Laws
end

