-- ==== Sys2Proof/Laws/Ops.lean ====
section
/-! SUPPORT. One law per shared operation of Machine/Ops.lean and Machine/Operands.lean, saying once what the operation can
do; the invariant of the delay lines through each of them. -/

namespace Sys2Proof.Machine

variable {cfg : Params}

/-! ## Operands -/

/-- A unit field selects a unit exactly when it holds the unit's number. -/
theorem unitOf_eq_some_iff {n : Nat} (u : UnitField) (i : Fin n) : unitOf n u = some i ↔ u.toNat = i.val := by
  unfold unitOf
  split
  · simp [Fin.ext_iff]
  · constructor
    · simp
    · intro h
      exact absurd (h ▸ i.isLt) ‹_›

/-- A unit field selects none exactly when it is at or above the count. -/
theorem unitOf_eq_none_iff {n : Nat} (u : UnitField) : unitOf n u = none ↔ n ≤ u.toNat := by
  unfold unitOf
  split <;> simp <;> omega

/-- The field that holds a unit's number selects that unit, in a bank of at most 256. -/
theorem unitOf_unitField {n : Nat} (hn : n ≤ 256) (i : Fin n) : unitOf n (unitField i) = some i := by
  rw [unitOf_eq_some_iff]
  exact Nat.mod_eq_of_lt (lt_of_lt_of_le i.isLt hn)

/-- A pre-filter selector is legal up to NBQ and its code is what PRESEL shows. -/
theorem preselOf_spec (f : BitVec 4) (h : f.toNat ≤ cfg.nbq) :
    ∃ p, preselOf cfg f = some p ∧ preselCode p = f.toNat := by
  unfold preselOf
  split
  · exact ⟨none, rfl, by simp_all [preselCode]⟩
  · rename_i h0
    have hlt : f.toNat - 1 < cfg.nbq := by omega
    exact ⟨some ⟨f.toNat - 1, hlt⟩, by rw [dif_pos hlt], by simp only [preselCode]; omega⟩

/-! ## Sample registers -/

@[simp] theorem getX_setX_self (s : State cfg) (r : Reg) (v : Word) : getX (setX s r v) r = v := by simp [getX]

theorem getX_setX_of_ne (s : State cfg) {r q : Reg} (v : Word) (h : q ≠ r) : getX (setX s r v) q = getX s q := by
  simp only [getX, setX_x]
  exact Vector.getElem_set_ne _ _ (fun he => h (Fin.ext he.symm))

/-! ## Ending a command -/

/-- A completed command answers the advanced state and nothing else. -/
@[simp] theorem complete_eq_next (s t : State cfg) : complete s = .next t ↔ advance s = t := by simp [complete]

/-- The exception answers the state it records in and nothing else. -/
@[simp] theorem illegal_eq_next (i : Instr) (s t : State cfg) :
    illegal i s = .next t ↔ raiseIllegal (encode i) s = t := by
  simp [illegal]

/-! ## Cursors -/

/-- A moved cursor is the value's remainder by the capacity. -/
theorem setCursor_dp (s : State cfg) (d : Fin cfg.ndl) (v : Word) :
    (setCursor s d v).dl[d].dp.toNat = v.toNat % cfg.cap d := by
  simp only [setCursor_dl]
  rw [show (s.dl.set d { s.dl[d] with dp := v &&& capMask cfg d })[d] = { s.dl[d] with dp := v &&& capMask cfg d } from
    Vector.getElem_set_self _]
  exact and_capMask_toNat d v

theorem setCursor_other (s : State cfg) {d e : Fin cfg.ndl} (v : Word) (h : e ≠ d) :
    (setCursor s d v).dl[e] = s.dl[e] := by
  simp only [setCursor_dl]
  exact Vector.getElem_set_ne _ _ (fun he => h (Fin.ext he.symm))

/-- Moving a cursor touches no cell. -/
@[simp] theorem memRead_setCursor (s : State cfg) (d e : Fin cfg.ndl) (v : Word) (a : Nat) :
    memRead (setCursor s d v) e a = memRead s e a := by
  by_cases h : e = d
  · subst h
    simp only [memRead, setCursor_dl]
    rw [show (s.dl.set e { s.dl[e] with dp := v &&& capMask cfg e })[e] = { s.dl[e] with dp := v &&& capMask cfg e } from
      Vector.getElem_set_self _]
  · simp only [memRead, setCursor_other s v h]

/-- The rotation touches no cell. -/
@[simp] theorem memRead_rotate (s : State cfg) (d e : Fin cfg.ndl) (a : Nat) :
    memRead (rotate s d) e a = memRead s e a := memRead_setCursor ..

/-- A store moves no cursor. -/
@[simp] theorem memWrite_dp (s : State cfg) (d e : Fin cfg.ndl) (a : Nat) (v : Word) :
    (memWrite s d a v).dl[e].dp = s.dl[e].dp := by
  simp only [memWrite_dl]
  by_cases h : e = d
  · subst h
    rw [show (s.dl.set e { s.dl[e] with buf := Memory.write s.dl[e].buf a v })[e]
      = { s.dl[e] with buf := Memory.write s.dl[e].buf a v } from Vector.getElem_set_self _]
  · rw [show (s.dl.set d { s.dl[d] with buf := Memory.write s.dl[d].buf a v })[e] = s.dl[e] from
      Vector.getElem_set_ne _ _ (fun he => h (Fin.ext he.symm))]

/-- So a store re-labels no offset. -/
@[simp] theorem dlIndex_memWrite (s : State cfg) (d e : Fin cfg.ndl) (a off : Nat) (v : Word) :
    dlIndex (memWrite s d a v) e off = dlIndex s e off := by simp only [dlIndex, memWrite_dp]

@[simp] theorem dlIndex_writeOffset (s : State cfg) (d e : Fin cfg.ndl) (a off : Nat) (v : Word) :
    dlIndex (writeOffset s d a v) e off = dlIndex s e off := dlIndex_memWrite ..

/-- Two offsets less than a capacity apart name two cells. -/
theorem dlIndex_ne (s : State cfg) (d : Fin cfg.ndl) {a b : Nat} (h : a < b) (hc : b - a < cfg.cap d) :
    dlIndex s d a ≠ dlIndex s d b := by
  rw [dlIndex_eq_mod, dlIndex_eq_mod]
  intro he
  have h1 := (Nat.modEq_iff_dvd' (by omega : s.dl[d].dp.toNat + a ≤ s.dl[d].dp.toNat + b)).1 he
  have h2 := Nat.le_of_dvd (by omega) h1
  omega

/-! ## Allpass, filters and the interpolated read -/

/-- An allpass section stores once, at its in offset, and answers from what it stored and the tap before the store. -/
theorem allpass_eq (s : State cfg) (d : Fin cfg.ndl) (inOff outOff : Nat) (g acc : F32) :
    allpass s d inOff outOff g acc =
      (writeOffset s d inOff (fsub acc (fmul (readOffset s d outOff) g)),
        fadd (fmul (fsub acc (fmul (readOffset s d outOff) g)) g) (readOffset s d outOff)) := rfl

/-- A lowpass step answers the history it leaves. -/
theorem lowpass_eq (s : State cfg) (u : Fin cfg.nop) (v : F32) :
    lowpass s u v = (setOpZ1 s u (onePoleNext s.op[u] v), onePoleNext s.op[u] v) := rfl

/-- A highpass step leaves the same history and answers what it leaves of the input. -/
theorem highpass_eq (s : State cfg) (u : Fin cfg.nop) (v : F32) :
    highpass s u v = (setOpZ1 s u (onePoleNext s.op[u] v), fsub v (onePoleNext s.op[u] v)) := rfl

/-- A biquad step replaces one unit. -/
theorem biquadStep_eq (s : State cfg) (u : Fin cfg.nbq) (v : F32) :
    biquadStep s u v = (setBq s u (biquadAdvance s.bq[u] v), biquadOut s.bq[u] v) := rfl

/-- The interpolated read in terms of its two cells. -/
theorem readInterpolated_eq (s : State cfg) (d : Fin cfg.ndl) (a : Nat) :
    readInterpolated s d a =
      fadd (readOffset s d (a / 4096))
        (fmul (fsub (readOffset s d (a / 4096 + 1)) (readOffset s d (a / 4096))) (frac12 (a % 4096))) := rfl

/-! ## The mailbox -/

/-- A drain with pending stores moves the oldest; without, it does nothing. -/
theorem uiDrain_eq (s : State cfg) (p : Fin Config.NP) :
    uiDrain s p = match s.pq[p] with
      | [] => s
      | v :: rest => { s with p := s.p.set p v, pq := s.pq.set p rest } := rfl

/-! ## The delay-line invariant -/

/-- Replacing one line by one that is in range and canonical keeps the invariant. -/
theorem lineInv_of_set (s t : State cfg) (d : Fin cfg.ndl) (l : DelayLine) (h : s.LineInv) (ht : t.dl = s.dl.set d l)
    (hl : l.dp.toNat < cfg.cap d ∧ Memory.wf (cfg.cap d) l.buf = true) : t.LineInv := by
  intro e
  rw [ht]
  by_cases he : e = d
  · subst he
    rw [show (s.dl.set e l)[e] = l from Vector.getElem_set_self _]
    exact hl
  · rw [show (s.dl.set d l)[e] = s.dl[e] from Vector.getElem_set_ne _ _ (fun h' => he (Fin.ext h'.symm))]
    exact h e

theorem lineInv_memWrite (s : State cfg) (d : Fin cfg.ndl) {a : Nat} (v : Word) (h : s.LineInv) (ha : a < cfg.cap d) :
    (memWrite s d a v).LineInv :=
  lineInv_of_set s _ d _ h rfl ⟨(h d).1, Memory.wf_write (h d).2 ha v⟩

theorem lineInv_writeOffset (s : State cfg) (d : Fin cfg.ndl) (off : Nat) (v : Word) (h : s.LineInv) :
    (writeOffset s d off v).LineInv := lineInv_memWrite s d v h (dlIndex_lt_cap s d off)

theorem lineInv_setCursor (s : State cfg) (d : Fin cfg.ndl) (v : Word) (h : s.LineInv) : (setCursor s d v).LineInv :=
  lineInv_of_set s _ d _ h rfl ⟨by rw [and_capMask_toNat]; exact Nat.mod_lt _ (cap_pos d), (h d).2⟩

theorem lineInv_rotate (s : State cfg) (d : Fin cfg.ndl) (h : s.LineInv) : (rotate s d).LineInv :=
  lineInv_setCursor s d _ h

theorem lineInv_clearLine (s : State cfg) (d : Fin cfg.ndl) (h : s.LineInv) : (clearLine s d).LineInv :=
  lineInv_of_set s _ d _ h rfl ⟨cap_pos d, Memory.wf_nil _⟩

theorem lineInv_allpass (s : State cfg) (d : Fin cfg.ndl) (i o : Nat) (g acc : F32) (h : s.LineInv) :
    (allpass s d i o g acc).1.LineInv := lineInv_writeOffset s d i _ h

/-- The reset memory is canonical. -/
theorem lineInv_reset : State.reset.LineInv := by decide

end Sys2Proof.Machine
end

