-- ==== Sys2Proof/Laws/PerInstr.lean ====
section
/-! SUPPORT. The statements made per command, each a family with one lemma for every constructor of Instr. -/

namespace Sys2Proof.Laws.EncodingRoundTrip

/-- The fields that encode a command carry an opcode of the table, leave every field the command does not use at zero, and
give the command back (spec/30_encoding.md R101, R105). -/
def Statement (i : Instr) : Prop :=
  ∃ u, usesOf (encodeFields i).opcode = some u ∧ unusedZero u (encodeFields i) = true
    ∧ operandsOf (encodeFields i) = some i

theorem nop : Statement .nop :=
  ⟨_, rfl, by simp [unusedZero, encodeFields, blankFields], by simp [operandsOf, encodeFields, blankFields]⟩

theorem reset : Statement .reset :=
  ⟨_, rfl, by simp [unusedZero, encodeFields, blankFields], by simp [operandsOf, encodeFields, blankFields]⟩

theorem setfs (hz : Word) : Statement (.setfs hz) :=
  ⟨_, rfl, by simp [unusedZero, encodeFields, blankFields], by simp [operandsOf, encodeFields, blankFields]⟩

theorem cstep (rd : Reg) : Statement (.cstep rd) :=
  ⟨_, rfl, by simp [unusedZero, encodeFields, blankFields], by simp [operandsOf, encodeFields, blankFields]⟩

theorem ldi (rd : Reg) (imm : Word) : Statement (.ldi rd imm) :=
  ⟨_, rfl, by simp [unusedZero, encodeFields, blankFields], by simp [operandsOf, encodeFields, blankFields]⟩

theorem mov (rd rs1 : Reg) : Statement (.mov rd rs1) :=
  ⟨_, rfl, by simp [unusedZero, encodeFields, blankFields], by simp [operandsOf, encodeFields, blankFields]⟩

theorem rdreg (rd : Reg) (a : BitVec 16) : Statement (.rdreg rd a) :=
  ⟨_, rfl, by simp [unusedZero, encodeFields, blankFields], by simp [operandsOf, encodeFields, blankFields]⟩

theorem wrreg (rs1 : Reg) (a : BitVec 16) : Statement (.wrreg rs1 a) :=
  ⟨_, rfl, by simp [unusedZero, encodeFields, blankFields], by simp [operandsOf, encodeFields, blankFields]⟩

theorem setk (k : KReg) (rs1 : Reg) : Statement (.setk k rs1) :=
  ⟨_, rfl, by simp [unusedZero, encodeFields, blankFields], by simp [operandsOf, encodeFields, blankFields]⟩

theorem dlRot (d : UnitField) : Statement (.dlRot d) :=
  ⟨_, rfl, by simp [unusedZero, encodeFields, blankFields], by simp [operandsOf, encodeFields, blankFields]⟩

theorem dlWr (d : UnitField) (rs1 : Reg) (off : Word) : Statement (.dlWr d rs1 off) :=
  ⟨_, rfl, by simp [unusedZero, encodeFields, blankFields], by simp [operandsOf, encodeFields, blankFields]⟩

theorem dlRd (rd : Reg) (d : UnitField) (off : Word) : Statement (.dlRd rd d off) :=
  ⟨_, rfl, by simp [unusedZero, encodeFields, blankFields], by simp [operandsOf, encodeFields, blankFields]⟩

theorem dlRdi (rd : Reg) (d : UnitField) (q : Word) : Statement (.dlRdi rd d q) :=
  ⟨_, rfl, by simp [unusedZero, encodeFields, blankFields], by simp [operandsOf, encodeFields, blankFields]⟩

theorem dlAp (rd : Reg) (d : UnitField) (k : KReg) (inOff outOff : BitVec 16) :
    Statement (.dlAp rd d k inOff outOff) :=
  ⟨_, rfl, by simp [unusedZero, encodeFields, blankFields], by simp [operandsOf, encodeFields, blankFields]⟩

theorem dlClr (d : UnitField) : Statement (.dlClr d) :=
  ⟨_, rfl, by simp [unusedZero, encodeFields, blankFields], by simp [operandsOf, encodeFields, blankFields]⟩

theorem opSet (u : UnitField) (rs1 : Reg) : Statement (.opSet u rs1) :=
  ⟨_, rfl, by simp [unusedZero, encodeFields, blankFields], by simp [operandsOf, encodeFields, blankFields]⟩

theorem opLp (rd rs1 : Reg) (u : UnitField) : Statement (.opLp rd rs1 u) :=
  ⟨_, rfl, by simp [unusedZero, encodeFields, blankFields], by simp [operandsOf, encodeFields, blankFields]⟩

theorem opHp (rd rs1 : Reg) (u : UnitField) : Statement (.opHp rd rs1 u) :=
  ⟨_, rfl, by simp [unusedZero, encodeFields, blankFields], by simp [operandsOf, encodeFields, blankFields]⟩

theorem opRst (u : UnitField) : Statement (.opRst u) :=
  ⟨_, rfl, by simp [unusedZero, encodeFields, blankFields], by simp [operandsOf, encodeFields, blankFields]⟩

theorem bqCfg (u : UnitField) (ty : BiquadType) (rfc rq rgain : Reg) :
    Statement (.bqCfg u ty rfc rq rgain) :=
  ⟨_, rfl, by simp [unusedZero, encodeFields, blankFields], by simp [operandsOf, encodeFields, blankFields]⟩

theorem bqProc (rd rs1 : Reg) (u : UnitField) : Statement (.bqProc rd rs1 u) :=
  ⟨_, rfl, by simp [unusedZero, encodeFields, blankFields], by simp [operandsOf, encodeFields, blankFields]⟩

theorem bqRst (u : UnitField) : Statement (.bqRst u) :=
  ⟨_, rfl, by simp [unusedZero, encodeFields, blankFields], by simp [operandsOf, encodeFields, blankFields]⟩

theorem envMode (e : UnitField) (m : EnvMode) : Statement (.envMode e m) :=
  ⟨_, rfl, by simp [unusedZero, encodeFields, blankFields], by simp [operandsOf, encodeFields, blankFields]⟩

theorem envTime (e : UnitField) (sel : TimeSel) (rs1 : Reg) : Statement (.envTime e sel rs1) :=
  ⟨_, rfl, by simp [unusedZero, encodeFields, blankFields], by simp [operandsOf, encodeFields, blankFields]⟩

theorem envSus (e : UnitField) (rs1 : Reg) : Statement (.envSus e rs1) :=
  ⟨_, rfl, by simp [unusedZero, encodeFields, blankFields], by simp [operandsOf, encodeFields, blankFields]⟩

theorem envTick (rd : Reg) (e : UnitField) (g : Bool) : Statement (.envTick rd e g) :=
  ⟨_, rfl, by simp [unusedZero, encodeFields, blankFields], by simp [operandsOf, encodeFields, blankFields]⟩

theorem envRdf (rd : Reg) (e : UnitField) : Statement (.envRdf rd e) :=
  ⟨_, rfl, by simp [unusedZero, encodeFields, blankFields], by simp [operandsOf, encodeFields, blankFields]⟩

theorem envRst (e : UnitField) : Statement (.envRst e) :=
  ⟨_, rfl, by simp [unusedZero, encodeFields, blankFields], by simp [operandsOf, encodeFields, blankFields]⟩

theorem tlookup (rd rs1 : Reg) : Statement (.tlookup rd rs1) :=
  ⟨_, rfl, by simp [unusedZero, encodeFields, blankFields], by simp [operandsOf, encodeFields, blankFields]⟩

theorem lmCfg (m : UnitField) (rs1 : Reg) (presel : BitVec 4) (hold : Word) : Statement (.lmCfg m rs1 presel hold) :=
  ⟨_, rfl, by simp [unusedZero, encodeFields, blankFields], by simp [operandsOf, encodeFields, blankFields]⟩

theorem lmProc (m : UnitField) (rs1 : Reg) : Statement (.lmProc m rs1) :=
  ⟨_, rfl, by simp [unusedZero, encodeFields, blankFields], by simp [operandsOf, encodeFields, blankFields]⟩

theorem lmRd (rd : Reg) (m : UnitField) (sel : ReadSel) : Statement (.lmRd rd m sel) :=
  ⟨_, rfl, by simp [unusedZero, encodeFields, blankFields], by simp [operandsOf, encodeFields, blankFields]⟩

theorem lmRst (m : UnitField) : Statement (.lmRst m) :=
  ⟨_, rfl, by simp [unusedZero, encodeFields, blankFields], by simp [operandsOf, encodeFields, blankFields]⟩

theorem rvChar (p : BitVec 4) : Statement (.rvChar p) :=
  ⟨_, rfl, by simp [unusedZero, encodeFields, blankFields], by simp [operandsOf, encodeFields, blankFields]⟩

theorem rvParam (sel : ParamSel) (rs1 : Reg) : Statement (.rvParam sel rs1) :=
  ⟨_, rfl, by simp [unusedZero, encodeFields, blankFields], by simp [operandsOf, encodeFields, blankFields]⟩

theorem rvEtime (q : Word) : Statement (.rvEtime q) :=
  ⟨_, rfl, by simp [unusedZero, encodeFields, blankFields], by simp [operandsOf, encodeFields, blankFields]⟩

theorem rvProc (rl rr rs1 : Reg) : Statement (.rvProc rl rr rs1) :=
  ⟨_, rfl, by simp [unusedZero, encodeFields, blankFields], by simp [operandsOf, encodeFields, blankFields]⟩

theorem rvRst : Statement .rvRst :=
  ⟨_, rfl, by simp [unusedZero, encodeFields, blankFields], by simp [operandsOf, encodeFields, blankFields]⟩

end Sys2Proof.Laws.EncodingRoundTrip
end

