-- ==== Sys2Proof/Tests/Slice0.lean ====
section
/-! SUPPORT. Tests: the checks of well-formedness, the encoding vectors and illegal words of spec/95_test_vectors.md, one
step of each command on a small state with the values that file gives, and for every statement of
Sys2Proof/Certificates/Slice0/Obligations.lean with hypotheses a state and operands that meet them. -/

namespace Sys2Proof.Tests

open Sys2Proof Sys2Proof.Machine

/-! ## Helpers -/

/-- The next state of an outcome (the reset state for any other outcome). -/
def after (r : StepResult) : State :=
  match r with
  | .next t => t
  | .fault _ => State.reset
  | .refused _ => State.reset

/-- The reset state with some sample registers set. -/
def withX (xs : List (Reg × Word)) : State := xs.foldl (fun s p => setX s p.1 p.2) State.reset

/-- What one command leaves of the reset state with some sample registers set. -/
def ran (i : Instr) (xs : List (Reg × Word)) : State := after (exec i (withX xs))

/-- One step of the machine on the reset state with some sample registers set, the host presenting one word. -/
def stepped (c : CommandWord) (xs : List (Reg × Word)) : State :=
  after (step { withX xs with input := [.command c] })

/-- A state with one-pole unit 5 at a coefficient and a history. -/
def withOp (a0 z1 : F32) (xs : List (Reg × Word)) : State := setOp (withX xs) 5 { fc := 0x447A0000#32, a0 := a0, z1 := z1 }

/-- One-pole units with coefficient 0.5 and no history, so that no value of NUM enters. -/
def plainOps : Vector OnePole Config.NOP := Vector.replicate Config.NOP { fc := fZero, a0 := fHalf, z1 := fZero }

/-- The dyadic lowpass of program P4 in biquad unit 3, with a history. -/
def withBq (z1 z2 : F32) (xs : List (Reg × Word)) : State :=
  setBq (withX xs) 3
    { ty := .lpf, fc := 0x447A0000#32, q := fSqrt1_2, gain := fZero, z1 := z1, z2 := z2
      coef := { a0 := 0x3E000000#32, a1 := 0x3E800000#32, a2 := 0x3E000000#32, b1 := 0xBF000000#32, b2 := fZero } }

/-- An ADSR envelope in unit 0 with steps 20000, 10000, 15000 and sustain 40000. -/
def withEnv (mode : EnvMode) (st : EnvState) (level : Word) (gate : Bool) (xs : List (Reg × Word)) : State :=
  setEnv (withX xs) 0
    { mode := mode, st := st, level := level, astep := 20000#16, dstep := 10000#16, rstep := 15000#16
      sus := 40000#16, gate := gate }

/-- A meter in unit 0 with COEF 0.5 and HOLDCFG 3. -/
def withLm (presel : Option (Fin Config.NBQ)) (level peak : F32) (hold : Word) (xs : List (Reg × Word)) : State :=
  setLm (withX xs) 0
    { fcs := 0x41200000#32, coef := fHalf, holdCfg := 3#32, presel := presel, level := level, peak := peak
      hold := hold }

/-- Delay line 1 with some cells. -/
def withCells (dp : Word) (cells : Memory) (xs : List (Reg × Word)) : State :=
  { withX xs with dl := State.reset.dl.set 1 { dp := dp, buf := cells } }

/-- A word stands for a command: it decodes to it and is what the command encodes to. -/
def pairs (l : List (CommandWord × Instr)) : Bool :=
  l.all fun p => decide (decodeTableWord 64 p.1.toNat = some p.2) && decide (encode p.2 = p.1)

/-- A word fails a decode check. -/
def rejected (c : CommandWord) (e : DecodeError) : Bool :=
  match decode c with
  | .ok _ => false
  | .error d => decide (d = e)

/-! ## Well-formed commands (spec/30_encoding.md R107, checks (3) to (5)) -/

theorem test_ill_formed_units :
    [Instr.dlRot 2#8, .dlWr 2#8 0 0#32, .dlRd 0 2#8 0#32, .dlRdi 0 2#8 0#32, .dlAp 0 2#8 0 0#16 0#16, .dlClr 255#8,
      .opSet 8#8 0, .opLp 0 0 8#8, .opHp 0 0 8#8, .opRst 8#8, .bqCfg 8#8 .lpf 0 0 0, .bqProc 0 0 8#8, .bqRst 8#8,
      .envMode 4#8 .ar, .envTime 4#8 .decay 0, .envSus 4#8 0, .envTick 0 4#8 true, .envRdf 0 4#8, .envRst 4#8,
      .lmCfg 4#8 0 0#4 0#32, .lmProc 4#8 0, .lmRd 0 4#8 .peak, .lmRst 4#8].map Instr.rangeError
      = List.replicate 23 (some .unitOutOfRange) := by decide

theorem test_ill_formed_selectors :
    (Instr.lmCfg 0#8 0 9#4 0#32).rangeError = some .functOutOfRange
      ∧ (Instr.rvChar 2#4).rangeError = some .functOutOfRange := by decide

theorem test_ill_formed_addresses :
    (Instr.rdreg 1 0xA000#16).rangeError = some .unmappedAddress
      ∧ (Instr.rdreg 1 0x2080#16).rangeError = some .unmappedAddress
      ∧ (Instr.wrreg 1 0x9080#16).rangeError = some .unmappedAddress
      ∧ (Instr.wrreg 1 0x0003#16).rangeError = some .readOnlyAddress
      ∧ (Instr.wrreg 1 0x7002#16).rangeError = some .readOnlyAddress := by decide

theorem test_well_formed_at_the_bounds :
    [Instr.opLp 1 1 7#8, .lmCfg 0#8 1 8#4 5#32, .setk 15 1, .dlAp 4 1#8 2 65535#16 3#16, .rvProc 5 5 5,
      .wrreg 1 0x4001#16, .rdreg 15 0x907F#16, .rvChar 1#4, .envTick 15 3#8 true, .bqCfg 7#8 .highshelf 15 14 13].all
      Instr.wellFormed = true := by decide

/-! ## Encodings (spec/95_test_vectors.md section 2.1), every row of the opcode table -/

theorem test_encoding_system :
    pairs [(0x0000000000000000#64, .nop), (0x0100000000000000#64, .reset), (0x020000000000AC44#64, .setfs 44100#32),
      (0x03F0000000000000#64, .cstep 15), (0x041000003F800000#64, .ldi 1 0x3F800000#32),
      (0x0573000000000000#64, .mov 7 3), (0x0610000000000000#64, .rdreg 1 0#16),
      (0x0701000000002051#64, .wrreg 1 0x2051#16), (0x0802030000000000#64, .setk 3 2)] = true := by decide

theorem test_encoding_delay_line :
    pairs [(0x1000000100000000#64, .dlRot 1#8), (0x1101000100000005#64, .dlWr 1#8 1 5#32),
      (0x1220000100000008#64, .dlRd 2 1#8 8#32), (0x1320000100002800#64, .dlRdi 2 1#8 0x2800#32),
      (0x1440020100000071#64, .dlAp 4 1#8 2 0#16 113#16), (0x1500000100000000#64, .dlClr 1#8)] = true := by decide

theorem test_encoding_filters :
    pairs [(0x2001000500000000#64, .opSet 5#8 1), (0x2121000500000000#64, .opLp 2 1 5#8),
      (0x2221000500000000#64, .opHp 2 1 5#8), (0x2300000500000000#64, .opRst 5#8),
      (0x2431240300000000#64, .bqCfg 3#8 .peak 1 2 3), (0x2521000300000000#64, .bqProc 2 1 3#8),
      (0x2600000300000000#64, .bqRst 3#8)] = true := by decide

theorem test_encoding_envelope :
    pairs [(0x3000020000000000#64, .envMode 0#8 .lfo), (0x3105020000000000#64, .envTime 0#8 .release 5),
      (0x3202000000000000#64, .envSus 0#8 2), (0x3330000000000001#64, .envTick 3 0#8 true),
      (0x3440000000000000#64, .envRdf 4 0#8), (0x3500000000000000#64, .envRst 0#8),
      (0x3621000000000000#64, .tlookup 2 1)] = true := by decide

theorem test_encoding_level_meter :
    pairs [(0x400100000000BB80#64, .lmCfg 0#8 1 0#4 48000#32), (0x4101000000000000#64, .lmProc 0#8 1),
      (0x4220030000000000#64, .lmRd 2 0#8 .peakDb), (0x4300000000000000#64, .lmRst 0#8)] = true := by decide

theorem test_encoding_reverberator :
    pairs [(0x5000010000000000#64, .rvChar 1#4), (0x5101000000000000#64, .rvParam .tone 1),
      (0x5200000001770800#64, .rvEtime 0x01770800#32), (0x5321300000000000#64, .rvProc 2 3 1),
      (0x5400000000000000#64, .rvRst)] = true := by decide

/-- The legal neighbours of part 4, and two pseudo-commands of section 2.1. -/
theorem test_encoding_neighbours :
    pairs [(0x2111000700000000#64, .opLp 1 1 7#8), (0x4001080000000005#64, .lmCfg 0#8 1 8#4 5#32),
      (0x08010F0000000000#64, .setk 15 1), (0x14400201FFFF0003#64, .dlAp 4 1#8 2 65535#16 3#16),
      (0x5355500000000000#64, .rvProc 5 5 5), (0x0701000000004001#64, .wrreg 1 0x4001#16),
      (0x0620000000008011#64, .rdreg 2 0x8011#16), (0x3330000000000000#64, .envTick 3 0#8 false)] = true := by decide

/-- The bytes of a word stand least significant first (spec/20_memory.md R83). -/
theorem test_byte_order :
    bytesOfWord 0x2521000300000000#64 = [0#8, 0#8, 0#8, 0#8, 3#8, 0#8, 0x21#8, 0x25#8]
      ∧ wordOfBytes [0#8, 0#8, 0#8, 0#8, 3#8, 0#8, 0x21#8, 0x25#8] = 0x2521000300000000#64 := by decide

/-! ## Illegal words (spec/95_test_vectors.md part 4) -/

theorem test_illegal_opcodes_and_fields :
    rejected 0x0900000000000000#64 .reservedOpcode = true ∧ rejected 0xFFFFFFFFFFFFFFFF#64 .reservedOpcode = true
      ∧ rejected 0x0010000000000000#64 .unusedField = true ∧ rejected 0x1000000100000001#64 .unusedField = true
      ∧ rejected 0x3310000000000002#64 .unusedField = true ∧ rejected 0x3612000100000000#64 .unusedField = true
      ∧ rejected 0x0610000000010000#64 .unusedField = true := by decide

theorem test_illegal_operands :
    rejected 0x1000000200000000#64 .unitOutOfRange = true ∧ rejected 0x2111000800000000#64 .unitOutOfRange = true
      ∧ rejected 0x2400070000000000#64 .functOutOfRange = true ∧ rejected 0x3000030000000000#64 .functOutOfRange = true
      ∧ rejected 0x3101030000000000#64 .functOutOfRange = true ∧ rejected 0x4001090000000000#64 .functOutOfRange = true
      ∧ rejected 0x4210060000000000#64 .functOutOfRange = true ∧ rejected 0x5000020000000000#64 .functOutOfRange = true
      ∧ rejected 0x5101060000000000#64 .functOutOfRange = true := by decide

theorem test_illegal_addresses :
    rejected 0x061000000000A000#64 .unmappedAddress = true ∧ rejected 0x0610000000002080#64 .unmappedAddress = true
      ∧ rejected 0x0701000000000003#64 .readOnlyAddress = true
      ∧ rejected 0x0701000000007002#64 .readOnlyAddress = true := by decide

/-- The exception: ILL, ERRINFO and pc, and the next command runs (program P6). -/
theorem test_illegal_command :
    statusWord (stepped 0x1000000200000000#64 []).status = 1#32
      ∧ (stepped 0x1000000200000000#64 []).errinfo = 0x10000002#32
      ∧ (stepped 0x1000000200000000#64 []).pc = 1
      ∧ (stepped 0x1000000200000000#64 []).dl[0].dp = 0#32
      ∧ (stepped 0x0701000000004001#64 [(1, 5#32)]).errinfo = 0x07010000#32
      ∧ (stepped 0x0701000000004001#64 [(1, 4#32)]).env[0].st = .release := by decide

/-! ## The configuration (spec/00_scope.md R8, R12) -/

theorem test_configuration :
    Config.cap 0 = 131072 ∧ Config.cap 1 = 65536 ∧ boundary Config.default 1 96000 7 = 70007
      ∧ (layoutOf Config.default 0 44100).toList = [0#32, 139#32, 243#32, 595#32, 854#32, 3297#32, 6053#32, 28104#32]
      ∧ (layoutOf Config.default 0 8000).toList = [0#32, 26#32, 45#32, 109#32, 156#32, 600#32, 1100#32, 5101#32]
      ∧ (layoutOf Config.default 0 96000).toList = [0#32, 303#32, 530#32, 1297#32, 1860#32, 7179#32, 13178#32, 61179#32] := by
  decide

/-- The smallest banks that R8 allows, one short delay line, and an echo region that fits it. -/
def smallRaw : RawParams :=
  { Config.defaultRaw with
    ndl := 1, dlLog2 := [14], nop := 5, nbq := 1, nenv := 1, nlm := 1, npreset := 1, presets := [Config.room]
    rvEchoLen48 := 0 }

/-- Records that break one constraint each: a bank too small, too many biquads, a capacity missing, a rate of 2^24, a bound
of 1.0, a quality range upside down, a table that rises, a preset coefficient above KMAX, R12 at FS_MAX alone, a KRT_MIN
and KRT_SPAN whose sum is 1.0, and a negative KRT_MIN. -/
def illFormed : List RawParams :=
  [{ Config.defaultRaw with nop := 4 }, { Config.defaultRaw with nbq := 16 }, { Config.defaultRaw with ndl := 3 },
    { Config.defaultRaw with fsMax := 2 ^ 24 }, { Config.defaultRaw with kMax := fOne },
    { Config.defaultRaw with qMin := 0x42820000#32 }, { Config.defaultRaw with timeTable := List.range 128 },
    { Config.defaultRaw with presets := [Config.room, { Config.hall with kap := fOne }] },
    { Config.defaultRaw with dlLog2 := [16, 16] }, { Config.defaultRaw with krtMin := fHalf, krtSpan := fHalf },
    { Config.defaultRaw with krtMin := 0xBE800000#32 }]

/-- A KRT_MIN of 1.5 with a KRT_SPAN of -1.0 (R8; notes/assumptions/14.md), and an FCR_MAX of 2^-20 with an FC_MIN of 2^-8,
so that fmul(PI, FCR_MAX) is below 2^-16 (R30). -/
def lowRaw : RawParams :=
  { smallRaw with krtMin := 0x3FC00000#32, krtSpan := 0xBF800000#32, fcrMax := 0x35800000#32, fcMin := 0x3B800000#32 }

/-- The defaults, the small record and the low one are accepted, the ill-formed ones have no machine. -/
theorem test_parameters :
    (coreOf Config.defaultRaw).isSome = true ∧ (coreOf smallRaw).isSome = true ∧ (coreOf lowRaw).isSome = true
      ∧ (illFormed.map RawParams.check) = List.replicate 11 false := by decide +kernel

/-- The small configuration. -/
def small : Params := { toRawParams := smallRaw, ok := by decide +kernel }

/-- The low configuration. -/
def low : Params := { toRawParams := lowRaw, ok := by decide +kernel }

/-- Where the tangent's range ends below 2^-16, nothing is assumed of it above that end (R30); and KRT at SIZE 1.0 and 0.0
(R246). -/
theorem test_low_configuration :
    fle (tanBound low) 0x37000000#32 = true ∧ fle 0x37000000#32 fTwoPowM16 = true
      ∧ numTan low 0x37000000#32 = Config.rawTan 0x37000000#32
      ∧ sizeKrt low fOne = fHalf ∧ sizeKrt low fZero = 0x3FC00000#32 := by
  have h : fle (tanBound low) 0x37000000#32 = true ∧ fle 0x37000000#32 (tanBound low) = false := by decide +kernel
  refine ⟨h.1, by decide, ?_, by decide +kernel, by decide +kernel⟩
  unfold numTan
  rw [if_neg (by decide), if_neg (by decide), if_neg (by decide), h.2, Bool.and_false, if_neg (by decide)]

/-- In the small configuration one-pole unit 5 and delay line 1 are out of range, and a command runs. -/
theorem test_small_configuration :
    decodeAt small 0x2300000500000000#64 = .error .unitOutOfRange
      ∧ decodeAt small 0x2300000400000000#64 = .ok (.opRst 4#8)
      ∧ decodeAt small 0x1000000100000000#64 = .error .unitOutOfRange
      ∧ (match execAt (.ldi 3 7#32) (State.resetAt small) with | .next t => t.x[(3 : Reg)] | _ => 0#32) = 7#32
      ∧ boundary small small.preset0 96000 7 = 13183 := by decide +kernel

/-! ## Numerics (spec/00_scope.md R23 to R29) -/

/-- Ties to even, subnormals kept, overflow, invalid operations (worked by hand from R23). -/
theorem test_rounding :
    fadd 0x3F800000#32 0x33800000#32 = 0x3F800000#32 ∧ fadd 0x3F800001#32 0x33800000#32 = 0x3F800002#32
      ∧ fmul 0x00000003#32 0x3F000000#32 = 0x00000002#32 ∧ fadd 0x7F7FFFFF#32 0x7F7FFFFF#32 = 0x7F800000#32
      ∧ fdiv 0x3F800000#32 0x40400000#32 = 0x3EAAAAAB#32 ∧ fdiv 0xBF800000#32 0x00000000#32 = 0xFF800000#32
      ∧ fsqrt 0x40000000#32 = 0x3FB504F3#32 ∧ fsqrt 0x80000000#32 = 0x80000000#32
      ∧ fadd 0x80000000#32 0x00000000#32 = 0x00000000#32 ∧ fsub 0x3F800000#32 0x3F800000#32 = 0x00000000#32 := by decide

theorem test_round_half_away :
    rhaz 0x427E0000#32 = 64 ∧ rhaz 0x42FCFFFF#32 = 126 ∧ rhaz 0xBF000000#32 = -1 ∧ rhaz 0x7FC00000#32 = 0
      ∧ u2f 48000 = 0x473B8000#32 ∧ i2f (-3) = 0xC0400000#32 ∧ fneg 0x00000000#32 = 0x80000000#32
      ∧ fabs 0xBF400000#32 = 0x3F400000#32 := by decide

/-! ## One step of each command (spec/95_test_vectors.md sections 1.2, 2.2 to 2.7) -/

theorem test_nop : (ran .nop [(1, 7#32)]).pc = 1 ∧ (ran .nop [(1, 7#32)]).x[1] = 7#32 := by decide

theorem test_reset :
    let t := after (exec .reset (withCells 5#32 [(4, 1#32)] [(1, 7#32)]))
    t.x[1] = 0#32 ∧ t.dl[1].dp = 0#32 ∧ t.dl[1].buf = [] ∧ t.fs = 48000#32 ∧ t.pc = 1 := by decide

theorem test_setfs :
    let t := ran (.setfs 8000#32) []
    t.fsf = 0x45FA0000#32 ∧ t.ctrlDiv = 8#32 ∧ t.rv.etime = 0x00F9F000#32 ∧ t.rv.etimereq = 0x02EE0000#32
      ∧ (ran (.setfs 0xFFFFFFFF#32) []).fs = 96000#32 ∧ (ran (.setfs 0#32) []).fs = 8000#32 := by decide

/-- A count of 20 is not below the new divider 8, a count of 5 is (spec/90_conflicts.md C11). -/
theorem test_setfs_count :
    (after (exec (.setfs 8000#32) { State.reset with ctrlCnt := 20#32 })).ctrlCnt = 0#32
      ∧ (after (exec (.setfs 8000#32) { State.reset with ctrlCnt := 5#32 })).ctrlCnt = 5#32 := by decide

theorem test_cstep :
    let t := after (exec (.cstep 15) { State.reset with ctrlCnt := 47#32 })
    t.x[15] = 1#32 ∧ t.ctrlCnt = 0#32 ∧ statusWord t.status = 2#32
      ∧ (ran (.cstep 15) []).ctrlCnt = 1#32 ∧ (ran (.cstep 15) []).x[15] = 0#32 := by decide

theorem test_ldi : (ran (.ldi 1 0x7FA00001#32) []).x[1] = 0x7FA00001#32 := by decide

theorem test_mov : (ran (.mov 2 1) [(1, 0x7FA00001#32)]).x[2] = 0x7FA00001#32 := by decide

theorem test_rdreg :
    (ran (.rdreg 1 0x0000#16) []).x[1] = 0x44565350#32 ∧ (ran (.rdreg 1 0x1011#16) []).x[1] = 16#32
      ∧ (ran (.rdreg 1 0x2000#16) []).x[1] = 0x43960000#32 ∧ (ran (.rdreg 1 0x3032#16) []).x[1] = 0x3F3504F3#32
      ∧ (ran (.rdreg 1 0x4006#16) []).x[1] = 65535#32 ∧ (ran (.rdreg 1 0x5002#16) []).x[1] = 48000#32 := by decide

theorem test_rdreg_tables :
    (ran (.rdreg 1 0x6006#16) []).x[1] = 0x3F100000#32 ∧ (ran (.rdreg 1 0x6017#16) []).x[1] = 30593#32
      ∧ (ran (.rdreg 1 0x7002#16) []).x[1] = 0#32 ∧ (ran (.rdreg 1 0x8011#16) []).x[1] = 0#32
      ∧ (ran (.rdreg 1 0x900D#16) []).x[1] = 27159#32 ∧ (ran (.rdreg 1 0x907F#16) []).x[1] = 12#32 := by decide

theorem test_wrreg :
    (ran (.wrreg 1 0x2051#16) [(1, 0x3F000000#32)]).op[5].a0 = 0x3F000000#32
      ∧ (ran (.wrreg 1 0x1010#16) [(1, 0x00010003#32)]).dl[1].dp = 3#32
      ∧ (ran (.wrreg 1 0x4003#16) [(1, 0#32)]).env[0].astep = 1#16
      ∧ (ran (.wrreg 1 0x4002#16) [(1, 0xFFFFFFFF#32)]).env[0].level = 65535#32
      ∧ (ran (.wrreg 1 0x4007#16) [(1, 2#32)]).env[0].gate = false := by decide

theorem test_setk :
    (ran (.setk 3 2) [(2, 0x3F800000#32)]).k[3] = 0x3F7C0000#32
      ∧ (ran (.setk 3 2) [(2, 0x7FC00000#32)]).k[3] = 0xBF7C0000#32
      ∧ (ran (.setk 3 2) [(2, 0x80000000#32)]).k[3] = 0x80000000#32
      ∧ (ran (.setk 3 2) [(2, 0x7F800000#32)]).k[3] = 0x3F7C0000#32 := by decide

theorem test_dl_rot :
    (ran (.dlRot 1#8) []).dl[1].dp = 65535#32 ∧ (ran (.dlRot 0#8) []).dl[0].dp = 131071#32 := by decide

/-- From DP = 65535 offset 5 is physical cell 4; a zero removes the entry. -/
theorem test_dl_wr :
    let s := withCells 65535#32 [(4, 9#32), (7, 1#32)] [(1, 0x3FC00000#32)]
    (after (exec (.dlWr 1#8 1 5#32) s)).dl[1].buf = [(4, 0x3FC00000#32), (7, 1#32)]
      ∧ (after (exec (.dlWr 1#8 0 5#32) s)).dl[1].buf = [(7, 1#32)] := by decide

/-- Offset 65544 wraps to 8. -/
theorem test_dl_rd :
    let s := withCells 65532#32 [(4, 0x3FC00000#32)] []
    (after (exec (.dlRd 2 1#8 8#32) s)).x[2] = 0x3FC00000#32
      ∧ (after (exec (.dlRd 2 1#8 65544#32) s)).x[2] = 0x3FC00000#32
      ∧ (after (exec (.dlRd 2 1#8 5#32) s)).x[2] = 0#32 := by decide

theorem test_dl_rdi :
    let s := withCells 0#32 [(2, 0x3F800000#32), (3, 0x40400000#32)] []
    (after (exec (.dlRdi 2 1#8 0x2FFF#32) s)).x[2] = 0x403FF800#32
      ∧ (after (exec (.dlRdi 2 1#8 0x2001#32) s)).x[2] = 0x3F801000#32
      ∧ (after (exec (.dlRdi 2 1#8 0x1800#32) s)).x[2] = 0x3F000000#32 := by decide

/-- The second cell wraps by itself; two minus zeros give plus zero. -/
theorem test_dl_rdi_edges :
    (after (exec (.dlRdi 2 1#8 0x0FFFF800#32)
        (withCells 0#32 [(0, 0x40800000#32), (65535, 0x40000000#32)] []))).x[2] = 0x40400000#32
      ∧ (after (exec (.dlRdi 2 1#8 0#32)
        (withCells 0#32 [(0, 0x80000000#32), (1, 0x80000000#32)] [(2, 1#32)]))).x[2] = 0x00000000#32 := by decide

/-- The degenerate section, in = out = 7. -/
theorem test_dl_ap :
    let s := withCells 0#32 [(7, 0x3E800000#32)] [(4, 0x3F800000#32)]
    let t := after (exec (.dlAp 4 1#8 2 7#16 7#16) { s with k := s.k.set 2 0x3F000000#32 })
    t.x[4] = 0x3F300000#32 ∧ t.dl[1].buf = [(7, 0x3F600000#32)] := by decide

theorem test_dl_clr :
    let t := after (exec (.dlClr 1#8) (withCells 9#32 [(7, 1#32)] []))
    t.dl[1] = { dp := 0#32, buf := [] } ∧ t.dl[0].dp = 0#32 ∧ t.pc = 1 := by decide

/-- A cutoff that is not above zero gives A0 = +0.0 under every NUM; FC keeps its pattern. -/
theorem test_op_set :
    let t := after (exec (.opSet 5#8 1) (withOp 0#32 0x3E800000#32 [(1, 0x7FC00000#32)]))
    t.op[5] = { fc := 0x7FC00000#32, a0 := 0x00000000#32, z1 := 0x3E800000#32 } := by decide

theorem test_op_lp :
    (after (exec (.opLp 2 1 5#8) (withOp 0x3DFB4720#32 0x3DFB4720#32 [(1, 0x3F800000#32)]))).x[2] = 0x3E6BDCD7#32
      ∧ (after (exec (.opLp 2 1 5#8) (withOp 0x3F800000#32 0x3F800001#32 [(1, 0x3DCCCCCD#32)]))).op[5].z1
        = 0x3DCCCCD0#32 := by decide

theorem test_op_hp :
    let t := after (exec (.opHp 2 1 5#8) (withOp 0x3DFB4720#32 0x3DFB4720#32 [(1, 0x3F800000#32)]))
    t.x[2] = 0x3F4508CA#32 ∧ t.op[5].z1 = 0x3E6BDCD7#32 := by decide

theorem test_op_rst :
    (after (exec (.opRst 5#8) (withOp 0x3F000000#32 0x3E800000#32 []))).op[5]
      = { fc := 0x447A0000#32, a0 := 0x3F000000#32, z1 := 0#32 } := by decide

/-- The same type keeps the history, another type clears it; the parameters are kept as given. -/
theorem test_bq_cfg :
    let s := withBq 0x3E800000#32 0xBF000000#32 [(1, 0x7FC00000#32), (2, 1#32), (3, 2#32)]
    let same := after (exec (.bqCfg 3#8 .lpf 1 2 3) s)
    let new := after (exec (.bqCfg 3#8 .hpf 1 2 3) s)
    same.bq[3].z1 = 0x3E800000#32 ∧ same.bq[3].z2 = 0xBF000000#32 ∧ new.bq[3].z1 = 0#32 ∧ new.bq[3].z2 = 0#32
      ∧ new.bq[3].fc = 0x7FC00000#32 ∧ new.bq[3].q = 1#32 ∧ new.bq[3].gain = 2#32 := by decide

/-- The derived coefficients from the intermediate values K and V of section 2.4. -/
theorem test_biquad_coefficients :
    coeffsOfTerms .lpf true 0x3D863BA7#32 0x3F3504F3#32 0x3FFF64C2#32
        = { a0 := 0x3B8052DA#32, a1 := 0x3C0052DA#32, a2 := 0x3B8052DA#32, b1 := 0xBFE85D18#32, b2 := 0x3F54BCC8#32 }
      ∧ coeffsOfTerms .highshelf false 0x3D863BA7#32 0x3F3504F3#32 0x3FFF64C2#32
        = { a0 := 0x3F03D076#32, a1 := 0xBF6F49B3#32, a2 := 0x3EDB13AB#32, b1 := 0xBFEF3C1D#32, b2 := 0x3F6088D3#32 }
      ∧ coeffsOfTerms .peak false 0x3D863BA7#32 0x3F3504F3#32 0x3FFF64C2#32
        = { a0 := 0x3F6C2429#32, a1 := 0xBFD656A5#32, a2 := 0x3F443C15#32, b1 := 0xBFD656A5#32, b2 := 0x3F30603F#32 }
      ∧ coeffsOfTerms .lowshelf true 0x3D863BA7#32 0x3F3504F3#32 0x3FFF64C2#32
        = { a0 := 0x3F84F5F3#32, a1 := 0xBFE75DA9#32, a2 := 0x3F4CCFBE#32, b1 := 0xBFE85D18#32, b2 := 0x3F54BCC8#32 } := by
  decide +kernel

/-- The first two steps of program P4. -/
theorem test_bq_proc :
    (after (exec (.bqProc 2 1 3#8) (withBq 0#32 0#32 [(1, 0x3F800000#32)]))).bq[3].z1 = 0x3EA00000#32
      ∧ (after (exec (.bqProc 2 1 3#8) (withBq 0x3EA00000#32 0x3E000000#32 [(1, 0x3F800000#32)]))).x[2]
        = 0x3EE00000#32 := by decide

theorem test_bq_rst :
    let t := after (exec (.bqRst 3#8) (withBq 0x3E800000#32 0xBF000000#32 []))
    t.bq[3].z1 = 0#32 ∧ t.bq[3].z2 = 0#32 ∧ t.bq[3].coef.a0 = 0x3E000000#32 := by decide

theorem test_env_mode :
    let s := withEnv .adsr .attack 60000#32 true []
    (after (exec (.envMode 0#8 .ar) s)).env[0].st = .idle ∧ (after (exec (.envMode 0#8 .ar) s)).env[0].level = 0#32
      ∧ (after (exec (.envMode 0#8 .ar) s)).env[0].gate = true
      ∧ (after (exec (.envMode 0#8 .adsr) s)).env[0].level = 60000#32 := by decide

theorem test_env_time :
    let t := ran (.envTime 0#8 .release 5) [(5, 0x3E4CCCCD#32)]
    t.env[0].rstep = 12044#16 ∧ t.env[0].astep = 65535#16
      ∧ (ran (.envTime 0#8 .attack 5) [(5, 0x3B810204#32)]).env[0].astep = 61241#16 := by decide

theorem test_env_sus :
    (ran (.envSus 0#8 2) [(2, 0x3F000000#32)]).env[0].sus = 32768#16
      ∧ (ran (.envSus 0#8 2) [(2, 0x3F4CCCCD#32)]).env[0].sus = 52428#16
      ∧ (ran (.envSus 0#8 2) [(2, 0x7FC00000#32)]).env[0].sus = 0#16 := by decide

/-- Ticks 4, 7, 8 and 10 of the first ADSR trace. -/
theorem test_env_tick_adsr :
    let tick := fun (st : EnvState) (level : Word) (old new : Bool) =>
      (after (exec (.envTick 3 0#8 new) (withEnv .adsr st level old []))).env[0]
    ((tick .attack 60000#32 true true).level = 65535#32 ∧ (tick .attack 60000#32 true true).st = .decay)
      ∧ ((tick .decay 45535#32 true true).level = 40000#32 ∧ (tick .decay 45535#32 true true).st = .sustain)
      ∧ ((tick .sustain 40000#32 true false).level = 25000#32 ∧ (tick .sustain 40000#32 true false).st = .release)
      ∧ ((tick .release 10000#32 false true).level = 30000#32 ∧ (tick .release 10000#32 false true).st = .attack) := by
  decide

/-- An LFO cycle goes on after the gate falls, and starts again from Idle only with the gate high. -/
theorem test_env_tick_lfo :
    let tick := fun (st : EnvState) (level : Word) (old new : Bool) =>
      (after (exec (.envTick 3 0#8 new) (withEnv .lfo st level old []))).env[0]
    (tick .attack 60000#32 true false).level = 65535#32 ∧ (tick .attack 60000#32 true false).st = .release
      ∧ (tick .idle 0#32 true true).st = .attack ∧ (tick .idle 0#32 true false).st = .idle
      ∧ (tick .release 535#32 true true).level = 0#32 ∧ (tick .release 535#32 true true).st = .idle := by decide

theorem test_env_rdf :
    (after (exec (.envRdf 4 0#8) (withEnv .adsr .sustain 52428#32 true []))).x[4] = 0x3F4CCCCD#32
      ∧ (after (exec (.envRdf 4 0#8) (withEnv .adsr .sustain 1#32 true []))).x[4] = 0x37800080#32 := by decide

theorem test_env_rst :
    let v := (after (exec (.envRst 0#8) (withEnv .ar .attack 60000#32 true []))).env[0]
    v.st = .idle ∧ v.level = 0#32 ∧ v.gate = false ∧ v.mode = .ar ∧ v.sus = 40000#16 := by decide

theorem test_tlookup :
    (ran (.tlookup 2 1) [(1, 0x3F7EFDFB#32)]).x[2] = 13#32 ∧ (ran (.tlookup 2 1) [(1, 0x3F7EFDFC#32)]).x[2] = 12#32
      ∧ (ran (.tlookup 2 1) [(1, 0x3F000000#32)]).x[2] = 857#32
      ∧ (ran (.tlookup 2 1) [(1, 0x7FC00000#32)]).x[2] = 65535#32 := by decide

/-- A cutoff that is not above zero gives COEF = 1.0 under every NUM; the running registers are kept. -/
theorem test_lm_cfg :
    (after (exec (.lmCfg 0#8 1 8#4 5#32) (withLm none fHalf fOne 2#32 [(1, 0xC0A00000#32)]))).lm[0]
      = { fcs := 0xC0A00000#32, coef := fOne, holdCfg := 5#32, presel := some 7, level := fHalf, peak := fOne
          hold := 2#32 } := by decide

/-- Rows 2 and 7 of the table: a peak, and an input equal to the level. -/
theorem test_lm_proc :
    let a := (after (exec (.lmProc 0#8 1) (withLm none fZero fZero 0#32 [(1, 0xBF400000#32)]))).lm[0]
    let b := (after (exec (.lmProc 0#8 1) (withLm none 0x3D400000#32 0x3F400000#32 0#32 [(1, 0x3D400000#32)]))).lm[0]
    a.level = 0x3F400000#32 ∧ a.peak = 0x3F400000#32 ∧ a.hold = 3#32
      ∧ b.level = 0x3CC00000#32 ∧ b.peak = 0x3F400000#32 ∧ b.hold = 0#32 := by decide

/-- The pre-filter's unit advances and its output is measured. -/
theorem test_lm_proc_presel :
    let s := withBq fZero fZero [(1, 0x3F800000#32)]
    let t := after (exec (.lmProc 0#8 1) (setLm s 0 (withLm (some 3) fZero fZero 0#32 []).lm[0]))
    t.lm[0].level = 0x3E000000#32 ∧ t.bq[3].z1 = 0x3EA00000#32 ∧ t.x[1] = 0x3F800000#32 := by decide

theorem test_lm_rd :
    let s := withLm none 0x40000000#32 0x40000000#32 1#32 []
    let z := withLm none 0x3DC00000#32 0x3F400000#32 0#32 []
    (after (exec (.lmRd 2 0#8 .level) s)).x[2] = 0x40000000#32 ∧ (after (exec (.lmRd 2 0#8 .peak) s)).x[2] = 0x40000000#32
      ∧ (after (exec (.lmRd 2 0#8 .light) s)).x[2] = 0x3F800000#32 ∧ (after (exec (.lmRd 2 0#8 .hold) s)).x[2] = 1#32
      ∧ (after (exec (.lmRd 2 0#8 .peak) z)).x[2] = 0#32
      ∧ (after (exec (.lmRd 2 0#8 .peakDb) z)).x[2] = 0xC2C00000#32 := by decide

theorem test_lm_rst :
    (after (exec (.lmRst 0#8) (withLm none fHalf fOne 2#32 []))).lm[0]
      = { fcs := 0x41200000#32, coef := fHalf, holdCfg := 3#32, presel := none, level := fZero, peak := fZero
          hold := 0#32 } := by decide

theorem test_rv_char :
    let t := ran (.rvChar 1#4) []
    t.rv.kap = 0x3F200000#32 ∧ t.rv.kcomb = 0x3F000000#32
      ∧ ((List.finRange Config.NOP).map fun u => t.op[u].fc) = [0x43480000#32, 0x459C4000#32, 0x457A0000#32, 0x457A0000#32, 0x453B8000#32,
        0x447A0000#32, 0x447A0000#32, 0x447A0000#32]
      ∧ t.rv.s.toList = [0#32, 212#32, 370#32, 934#32, 1344#32, 5796#32, 11006#32, 35007#32] := by decide

theorem test_rv_param_tone :
    let t := ran (.rvParam .tone 1) [(1, 0x3E99999A#32)]
    let u := ran (.rvParam .tone 1) [(1, 0x3F333333#32)]
    t.rv.klow = 0x3ECCCCCC#32 ∧ t.rv.khigh = 0#32 ∧ t.rv.kpass = 0x3F19999A#32
      ∧ u.rv.klow = 0#32 ∧ u.rv.khigh = 0x3ECCCCCC#32 ∧ u.rv.kpass = 0x3F19999A#32 := by decide

theorem test_rv_param :
    (ran (.rvParam .size 1) [(1, 0x3E99999A#32)]).rv.krt = 0x3EE00000#32
      ∧ (ran (.rvParam .feedback 1) [(1, 0x40000000#32)]).rv.kfb = 0x3F700000#32
      ∧ (ran (.rvParam .dry 1) [(1, 0x7FC00000#32)]).rv.kdry = 0#32
      ∧ (ran (.rvParam .reverb 1) [(1, 0x3E800000#32)]).rv.krev = 0x3E800000#32
      ∧ (ran (.rvParam .echo 1) [(1, 0x40000000#32)]).rv.kecho = 0x3F800000#32 := by decide

theorem test_rv_etime :
    (ran (.rvEtime 0x2FFF#32) []).rv.etime = 0x3000#32 ∧ (ran (.rvEtime 0x2FFF#32) []).rv.etimereq = 0x2FFF#32
      ∧ (ran (.rvEtime 0x05DBF001#32) []).rv.etime = 0x05DBF000#32
      ∧ (ran (.rvEtime 0x01770800#32) []).rv.etime = 0x01770800#32 := by decide

/-- The comb sections of HALL pass at once (section 2.7 (c)); and the right output is written last. -/
theorem test_rv_proc_combs :
    let s := after (exec (.rvChar 1#4) (withX [(1, 0x3F800000#32)]))
    let t := after (exec (.rvProc 2 3 1) { s with op := plainOps, rv := { s.rv with kdry := fZero, krev := fOne } })
    t.x[2] = 0x3D9C4000#32 ∧ t.x[3] = 0x3D9C4000#32 := by decide +kernel

/-- With KDRY = 0 and KECHO = 1 the three taps of an echo time of 3.0 samples, one sample after the impulse. -/
theorem test_rv_proc_echo :
    let s := after (exec (.rvEtime 0#32) (withX []))
    let cells : Memory := [(6594, 0x3F800000#32)]
    let t := after (exec (.rvProc 2 3 1)
      { s with
        op := plainOps
        rv := { s.rv with kdry := fZero, kecho := fOne }
        dl := s.dl.set 0 { dp := 1#32, buf := cells } })
    t.dl[0].dp = 0#32 ∧ t.x[2] = 0x3F000000#32 ∧ t.x[3] = 0x00000000#32 := by decide +kernel

theorem test_rv_rst :
    let t := after (exec .rvRst { withOp fHalf fOne [] with dl := State.reset.dl.set 0 { dp := 9#32, buf := [(3, 1#32)] } })
    t.dl[0] = { dp := 0#32, buf := [] } ∧ t.op[0].z1 = 0#32 ∧ t.op[5].z1 = fOne ∧ t.rv.yl = 0#32 := by decide

/-! ## The mailbox (spec/20_memory.md R88, R93) -/

/-- Two stores are seen one after the other, each once it drains. -/
theorem test_mailbox :
    let s := { State.reset with input := [.uiWrite 17 5#32, .uiWrite 17 6#32, .uiDrain 17] }
    let t := after (step (after (step (after (step s)))))
    t.p[17] = 5#32 ∧ t.pq[17] = [6#32] ∧ t.pc = 0 := by decide

/-! ## Witnesses: for every statement with hypotheses, states and operands that meet them all, clause by clause -/

/-- An outcome is a next state. -/
def isNext (r : StepResult) : Bool :=
  match r with
  | .next _ => true
  | .fault _ => false
  | .refused _ => false

/-- A command completes. -/
def completes (i : Instr) (s : State) : Bool := isNext (exec i s)

/-- One command of each shape, in the order of the opcode table. -/
def everyCommand : List Instr :=
  List.flatten [
    [.nop, .reset, .setfs 8000#32, .cstep 15, .ldi 0 0#32, .mov 1 1, .rdreg 1 0x907F#16, .wrreg 1 0x4001#16, .setk 15 1],
    [.dlRot 1#8, .dlWr 1#8 1 65536#32, .dlRd 1 0#8 0#32, .dlRdi 1 0#8 0#32, .dlAp 1 1#8 2 65535#16 0#16, .dlClr 0#8],
    [.opSet 7#8 1, .opLp 1 1 7#8, .opHp 1 1 0#8, .opRst 7#8, .bqCfg 7#8 .highshelf 1 2 3, .bqProc 1 1 7#8, .bqRst 0#8],
    [.envMode 3#8 .lfo, .envTime 3#8 .release 1, .envSus 3#8 1, .envTick 1 3#8 true, .envRdf 1 0#8, .envRst 3#8],
    [.tlookup 1 1, .lmCfg 3#8 1 8#4 0#32, .lmProc 3#8 1, .lmRd 1 3#8 .light, .lmRst 0#8],
    [.rvChar 1#4, .rvParam .echo 1, .rvEtime 0#32, .rvProc 5 5 5, .rvRst]]

/-- Every command completes, and is well formed: DecodeOfEncodeIsTheCommand, CommandsKeepTheMailboxAndAdvancePc,
ControlRegistersChangeOnlyByTheirCommands, CoefficientsAndHistoriesAreKeptApart, ReadsChangeOnlyTheirDestination. -/
theorem witness_commands_complete :
    everyCommand.length = 38 ∧ everyCommand.all Instr.wellFormed = true
      ∧ everyCommand.all (fun i => completes i State.reset) = true := by decide +kernel

theorem witness_EncodeOfDecodeIsTheWord : decode 0x5321300000000000#64 = .ok (.rvProc 2 3 1) := by rfl

/-- Every bound of the reserved ranges, and its legal neighbours. -/
theorem witness_ReservedOpcodesAreIllegal :
    ([0x09, 0x0F, 0x16, 0x1F, 0x27, 0x2F, 0x37, 0x3F, 0x44, 0x4F, 0x55, 0xFF].all fun o =>
        rejected (BitVec.ofNat 64 (o * 2 ^ 56)) .reservedOpcode) = true
      ∧ ([0x00, 0x08, 0x10, 0x15, 0x20, 0x26, 0x30, 0x36, 0x40, 0x43, 0x50, 0x54].all fun o =>
        !rejected (BitVec.ofNat 64 (o * 2 ^ 56)) .reservedOpcode) = true := by decide

theorem witness_WorkedEncodingsDecodeAndEncode :
    (1#4 : BitVec 4).toNat = (0 : Fin Config.NBQ).val + 1 ∧ (8#4 : BitVec 4).toNat = (7 : Fin Config.NBQ).val + 1 := by
  decide

theorem witness_StepRunsTheDecodedCommand :
    (State.reset.withFetchWord 64 0x03F0000000000000).input = .command 0x03F0000000000000#64 :: []
      ∧ decode 0x03F0000000000000#64 = .ok (.cstep 15) := ⟨rfl, rfl⟩

/-- Both clauses; a value of 4 is under neither. -/
theorem witness_IllegalCommandHasOnlyItsRecordedEffect :
    (State.reset.withFetchWord 64 0x1000000200000000).input = .command 0x1000000200000000#64 :: []
      ∧ decode 0x1000000200000000#64 = .error .unitOutOfRange
      ∧ decode 0x0701000000004031#64 = .ok (.wrreg 1 (regAddr 4 (3 : Fin Config.NENV) 1))
      ∧ 4 < (withX [(1, 5#32)]).x[(1 : Reg)].toNat ∧ ¬4 < (withX [(1, 4#32)]).x[(1 : Reg)].toNat :=
  ⟨rfl, rfl, rfl, by decide, by decide⟩

/-- At the defaults and in the small configuration; and a word of each bank's opcodes at the bank's count, one below it
being under no clause. -/
theorem witness_OutOfRangeOperandTakesTheException :
    (Instr.dlRot 2#8).wellFormed = false ∧ (Instr.lmCfg 0#8 0 9#4 0#32).wellFormed = false
      ∧ (Instr.wrreg 1 0x0003#16).wellFormed = false ∧ (Instr.dlRot 1#8).wellFormedAt small = false
      ∧ ((State.reset.withFetchWord 64 0x1000000200000000).input = .command 0x1000000200000000#64 :: [])
      ∧ ([(0x1000000200000000, Config.NDL), (0x1500000200000000, Config.NDL), (0x2000000800000000, Config.NOP),
          (0x2300000800000000, Config.NOP), (0x2400000800000000, Config.NBQ), (0x2600000800000000, Config.NBQ),
          (0x3000000400000000, Config.NENV), (0x3500000400000000, Config.NENV), (0x4000000400000000, Config.NLM),
          (0x4300000400000000, Config.NLM)].all fun w => decide (w.1 / 2 ^ 32 % 256 = w.2)) = true := by decide +kernel

theorem witness_MailboxActionsTouchOnlyTheirRegister :
    let s := { State.reset with pq := State.reset.pq.set 31 [7#32, 8#32] }
    ({ s with input := [.uiWrite 31 9#32] } : State).input = .uiWrite 31 9#32 :: []
      ∧ ({ s with input := [.uiDrain 31] } : State).input = .uiDrain 31 :: []
      ∧ s.pq[(31 : Fin Config.NP)] = 7#32 :: [8#32] ∧ s.pq[(0 : Fin Config.NP)] = [] := by decide

/-- Reached at the lowest and at the highest rate, a command waiting. -/
theorem witness_EveryStepKeepsTheInvariant_low :
    let s := after (exec (.setfs 8000#32) (State.reset.withFetchWord 64 0x03F0000000000000))
    s.Inv ∧ isNext (step s) = true := by decide +kernel

theorem witness_EveryStepKeepsTheInvariant_high :
    let s := after (exec (.setfs 96000#32) (State.reset.withFetchWord 64 0x0200000000001F40))
    s.Inv ∧ isNext (step s) = true := by decide +kernel

theorem witness_IllegalFlagIsStickyUntilReset :
    let s := { State.reset.withFetchWord 64 0x0330000000000000 with status := { ill := true, ctick := false } }
    let e := State.reset.withFetchWord 64 0x1000000200000000
    s.status.ill = true ∧ isNext (step s) = true ∧ decode 0x0330000000000000#64 ≠ .ok .reset
      ∧ isNext (step e) = true ∧ decode 0x1000000200000000#64 ≠ .ok .reset ∧ (after (step e)).errinfo ≠ e.errinfo := by
  decide +kernel

theorem witness_SampleRegistersChangeOnlyAsDestinations :
    completes (.rvProc 2 3 1) State.reset = true ∧ (1 : Reg) ∉ destinations (.rvProc 2 3 1)
      ∧ (0 : Reg) ∉ destinations (.cstep 15) := by decide

/-- A cell that DL.WR, DL.AP and RV.PROC do not store to, on the line they act on, and the lines the clears leave. -/
theorem witness_DelayCellsChangeOnlyWhereStored :
    ((1#8 : UnitField) = unitField (1 : Fin Config.NDL) ∧ 6 ≠ dlIndex State.reset 1 65541)
      ∧ (1#8 : UnitField) ≠ unitField (0 : Fin Config.NDL)
      ∧ (∀ r : Fin 7, 1 ≠ dlIndex (rotate State.reset 0) 0 (regionStart State.reset r))
      ∧ (1 : Fin Config.NDL) ≠ 0 := by decide

theorem witness_CoefficientsAndHistoriesAreKeptApart :
    (∀ v : Fin Config.NBQ, (3#8 : UnitField) = unitField v → BiquadType.lpf = State.reset.bq[v].ty)
      ∧ completes (.bqCfg 3#8 .lpf 1 2 3) State.reset = true := by decide

/-- The finite extremes, an exact zero sum, a zero divisor, and each special clause. -/
theorem witness_BasicOperationsAreCorrectlyRounded :
    isFinite 0x7F7FFFFF#32 = true ∧ isFinite 0x80000001#32 = true ∧ isZero 0x80000001#32 = false
      ∧ fvalue 0x00000001#32 + fvalue 0x80000001#32 = 0 ∧ fvalue 0x00000000#32 = fvalue 0x80000000#32
      ∧ isZero 0x80000000#32 = true ∧ isInf 0xFF800000#32 = true ∧ isInf 0x7F800000#32 = true
      ∧ (fsign 0xFF800000#32 != fsign 0x7F800000#32) = true ∧ isNaN 0x7F800001#32 = true := by decide

/-- The smallest subnormal and the largest finite number, with a smaller, a larger and the same `c`. -/
theorem witness_SquareRootIsCorrectlyRounded :
    (isFinite 0x00000001#32 = true ∧ isZero 0x00000001#32 = false ∧ fsign 0x00000001#32 = false)
      ∧ (isFinite 0x7F7FFFFF#32 = true ∧ isZero 0x7F7FFFFF#32 = false ∧ fsign 0x7F7FFFFF#32 = false)
      ∧ funits 0x00000000#32 < funits (fsqrt 0x40000000#32) ∧ funits (fsqrt 0x40000000#32) < funits 0x7F7FFFFF#32
      ∧ funits 0x3FB504F3#32 = funits (fsqrt 0x40000000#32)
      ∧ isZero 0x80000000#32 = true ∧ isNaN 0xFFC00000#32 = true
      ∧ (fsign 0xFF800000#32 = true ∧ isZero 0xFF800000#32 = false) := by decide +kernel

theorem witness_ClampBoundsEveryPattern :
    fle 0xC2C00000#32 0x00000000#32 = true ∧ inRange 0xC2C00000#32 0#32 0xC2C00000#32 ∧ isNaN 0xFFC00001#32 = true
      ∧ fle 0x00000000#32 0x80000000#32 = true := by decide

theorem witness_TranscendentalsHaveTheirNamedProperties :
    fle 0xFF800000#32 fZero = true ∧ fle 0xFF800000#32 0x7F800000#32 = true
      ∧ (fle fZero (tanBound Config.default) = true ∧ fle fTwoPowM16 (tanBound Config.default) = true
        ∧ fle (tanBound Config.default) (tanBound Config.default) = true)
      ∧ (fle fZero (tanBound low) = true ∧ fle (tanBound low) fTwoPowM16 = true)
      ∧ (fle fTwoPowM30 fMaxFinite = true ∧ isFinite fMaxFinite = true ∧ flt fZero 0x00000001#32 = true
        ∧ fle 0x00000001#32 fInf = true)
      ∧ (fle fZero fZero = true ∧ fle fZero fTwo = true ∧ fle fTwo fTwo = true) ∧ isNaN 0x7F800001#32 = true := by decide

theorem witness_ResetKeepsOnlyRateAndMailbox :
    (withX [(1, 7#32)]).fs = 48000#32 ∧ completes .reset (withX [(1, 7#32)]) = true := by decide

theorem witness_ControlTicksComeEveryDividerSamples :
    State.reset.RateInv ∧ State.reset.ctrlCnt = 0#32 ∧ 0 < 1 ∧ 48 % State.reset.ctrlDiv.toNat = 0 := by decide

/-- The largest state code, and the smallest value above it. -/
theorem witness_RegisterMapWritesTheLegalisedValue :
    (withX [(1, 4#32)]).x[(1 : Reg)] = 4#32 ∧ 4 < (withX [(1, 5#32)]).x[(1 : Reg)].toNat := by
  decide

theorem witness_SetkStoresTheClampedCoefficient :
    inRange 0xBF7C0000#32 0x3F7C0000#32 0x3F7C0000#32 ∧ flt 0x3F7C0000#32 0x3F7C0001#32 = true
      ∧ flt 0xBF7C0001#32 0xBF7C0000#32 = true ∧ isNaN 0x7FC00000#32 = true := by decide

theorem witness_DelayWriteStoresOneCell :
    Memory.wf (Config.cap 1) (withCells 9#32 [(0, 1#32), (65535, 2#32)] []).dl[(1 : Fin Config.NDL)].buf = true
      ∧ ¬((0 : Fin Config.NDL) = 1 ∧ 5 = (9 + 65536) % Config.cap 1) := by decide

theorem witness_AllpassStoresThenReturns :
    Memory.wf (Config.cap 1) (withCells 9#32 [(0, 1#32)] []).dl[(1 : Fin Config.NDL)].buf = true
      ∧ ¬((1 : Fin Config.NDL) = 1 ∧ 10 = dlIndex (withCells 9#32 [(0, 1#32)] []) 1 0) := by decide

theorem witness_ClearZeroesOneLine : (0 : Fin Config.NDL) ≠ 1 := by decide

theorem witness_WrittenValueReturnsAfterRotations :
    (withCells 65535#32 [(0, 1#32), (65535, 2#32)] []).LineInv ∧ 65536 = Config.cap 1 := by decide

theorem witness_OnePoleCoefficientIsInTheUnitInterval :
    (8000 ≤ 8000 ∧ 8000 ≤ 96000) ∧ (8000 ≤ 96000 ∧ 96000 ≤ 96000) ∧ flt fZero 0x7FC00000#32 = false ∧ flt fZero 0x80000000#32 = false := by decide

/-- With A0 = 0.5, and at both ends of the interval of A0. -/
theorem witness_ConstantInputIsALowpassFixedPoint :
    [fHalf, fZero, fOne].all (fun a0 =>
      let s := withOp a0 0x3F800000#32 [(1, 0x3F800000#32)]
      decide (isFinite s.x[(1 : Reg)] = true ∧ s.x[(1 : Reg)] ≠ 0x80000000#32
        ∧ s.op[(5 : Fin Config.NOP)].z1 = s.x[(1 : Reg)]
        ∧ inRange fZero fOne s.op[(5 : Fin Config.NOP)].a0)) = true := by decide

theorem witness_BiquadDerivationClampsItsParameters :
    fle 0x3F800000#32 (fmul (u2f 8000) 0x3EF00000#32) = true
      ∧ fle 0x3F800000#32 (fmul (u2f 96000) 0x3EF00000#32) = true := by decide

theorem witness_TimeTableMeetsItsConstraints : 0 < 128 ∧ 127 < 128 ∧ 126 < 127 := by decide

theorem witness_LookupSelectsATableEntry :
    flt fZero (withX [(1, 0x7FC00000#32)]).x[(1 : Reg)] = false ∧ fle fOne (withX [(1, fOne)]).x[(1 : Reg)] = true
      ∧ fle (withX [(1, fHalf)]).x[(1 : Reg)] fOne = true := by decide

theorem witness_EnvelopeTickFollowsTheStateMachine :
    (withEnv .adsr .attack 65535#32 true []).env[(0 : Fin Config.NENV)].level.toNat ≤ 65535 := by decide

/-- Attack, Release and Decay, each with a tick count on both sides of the end of the segment. -/
theorem witness_SegmentLengthsInTicks :
    let a := (withEnv .adsr .attack 0#32 true []).env[(0 : Fin Config.NENV)]
    let r := (withEnv .ar .release 65535#32 false []).env[(0 : Fin Config.NENV)]
    let d := (withEnv .adsr .decay 65535#32 true []).env[(0 : Fin Config.NENV)]
    (a.level.toNat ≤ 65535 ∧ a.st = .attack ∧ 1 ≤ a.astep.toNat ∧ 3 ≤ (65535 - a.level.toNat) / a.astep.toNat
        ∧ 4 = (65535 - a.level.toNat) / a.astep.toNat + 1)
      ∧ (r.level.toNat ≤ 65535 ∧ r.st = .release ∧ 1 ≤ r.rstep.toNat ∧ 4 ≤ r.level.toNat / r.rstep.toNat
        ∧ 5 = r.level.toNat / r.rstep.toNat + 1)
      ∧ (d.st = .decay ∧ 1 ≤ d.dstep.toNat ∧ d.level = 65535#32 ∧ 2 ≤ (65535 - d.sus.toNat) / d.dstep.toNat
        ∧ 3 = (65535 - d.sus.toNat) / d.dstep.toNat + 1) := by decide

/-- Sustain; and Decay at the level that a lower target with the step of 10000 just allows, and below a raised target. -/
theorem witness_SustainTracksTheKnob :
    let d := (withEnv .adsr .decay 42768#32 true []).env[(0 : Fin Config.NENV)]
    (withEnv .adsr .sustain 40000#32 true []).env[(0 : Fin Config.NENV)].st = .sustain
      ∧ d.st = .decay ∧ d.level.toNat ≤ 65535
      ∧ ((sustainOfKnob 0x3F000000#32).setWidth 32).toNat + d.dstep.toNat ≤ d.level.toNat
      ∧ d.level.toNat < ((sustainOfKnob 0x3F800000#32).setWidth 32).toNat := by decide

theorem witness_MeterConfigureAndReset : (0#4 : BitVec 4).toNat ≤ Config.NBQ ∧ (8#4 : BitVec 4).toNat ≤ Config.NBQ := by
  decide

theorem witness_MeterStepAttacksAtOnceAndDecays :
    (withLm none fZero fZero 0#32 []).lm[(0 : Fin Config.NLM)].presel = none
      ∧ (withLm (some 7) fZero fZero 0#32 []).lm[(0 : Fin Config.NLM)].presel = some 7 := by decide

theorem witness_MeterReadingsFollowTheirSelectors : inRange 0xC2C00000#32 fZero 0xC2C00000#32 := by decide

theorem witness_MeterKeepsPeakAboveLevel :
    let s := withLm none fHalf fOne 2#32 []
    s.lm[(0 : Fin Config.NLM)].Undisturbed ∧ isFinite s.lm[(0 : Fin Config.NLM)].level = true
      ∧ completes (.lmProc 0#8 1) s = true := by decide

/-- The meters of the reset state, for the second clause. -/
theorem witness_MeterKeepsPeakAboveLevel_zeroed :
    let v := State.reset.lm[(3 : Fin Config.NLM)]
    (8000 ≤ 48000 ∧ 48000 ≤ 96000) ∧ v.coef = meterCoef Config.default v.fcs (u2f 48000) ∧ v.level = fZero
      ∧ v.peak = fZero := ⟨by decide, rfl, rfl, rfl⟩

/-- A sample count below, and one at, the hold time of 3. -/
theorem witness_PeakIsHeldForTheHoldTime :
    let s := withLm none fHalf fHalf 2#32 [(1, 0xBF400000#32)]
    s.lm[(0 : Fin Config.NLM)].Undisturbed ∧ s.lm[(0 : Fin Config.NLM)].presel = none
      ∧ fgt (fabs s.x[(1 : Reg)]) s.lm[(0 : Fin Config.NLM)].level = true ∧ s.x[(2 : Reg)] = 0x00000000#32
      ∧ 2 < s.lm[(0 : Fin Config.NLM)].holdCfg.toNat ∧ s.lm[(0 : Fin Config.NLM)].holdCfg.toNat ≤ 3 := by decide

/-- HALL at the highest rate, where the layout is longest; and a record that breaks R12 there. -/
theorem witness_ReverbLayoutFitsTheLine :
    let s := after (exec (.rvChar 1#4) (after (exec (.setfs 96000#32) State.reset)))
    let r := { Config.defaultRaw with dlLog2 := [16, 16] }
    (Config.default.fsMin ≤ 8000 ∧ 96000 ≤ Config.default.fsMax) ∧ (small.fsMin ≤ 8000 ∧ 96000 ≤ small.fsMax)
      ∧ s.RateInv ∧ s.ReverbInv ∧ Config.hall ∈ r.presets ∧ r.fsMin ≤ 96000 ∧ 96000 ≤ r.fsMax
      ∧ 2 ^ r.dlLog2.getD 0 0 - 1 < r.boundaryOf Config.hall 96000 7 := by decide +kernel

theorem witness_ReverbFeedbackCoefficientsAreBounded : State.reset.ReverbInv := by decide +kernel

theorem witness_ReverbStepMixesAndFeedsBack :
    let s := after (exec (.rvEtime 0#32) State.reset)
    s.RateInv ∧ s.ReverbInv ∧ s.LineInv ∧ (∀ g : Fin 7, 1 ≠ dlIndex (rotate s 0) 0 (regionStart s g)) := by
  decide +kernel

theorem witness_ResetReverbPassesItsInput :
    isFinite (withX [(1, fHalf)]).x[(1 : Reg)] = true ∧ isZero (withX [(1, fHalf)]).x[(1 : Reg)] = false := by decide

end Sys2Proof.Tests
end

section
/-! SUPPORT. The step of the machine and the exception: which commands answer the exception on their own word, and that
every command and every step answers a next state (spec/00_scope.md R34, R35, spec/60_exceptions.md R270, R271). -/

namespace Sys2Proof.Machine

variable {cfg : Params}

/-! ## The exception -/

/-- The exception on a command's own word, field by field (R271). -/
theorem illegal_eq (i : Instr) (s : State cfg) :
    illegal i s = .next { s with
      status := { s.status with ill := true }, errinfo := (encode i).extractLsb' 32 32, pc := s.pc + 1 } := rfl

/-- A unit field that fails check (3) selects no unit of its bank. -/
theorem unitOf_eq_none_of_unitError {n : Nat} {u : UnitField} (h : (unitError n u).isNone = false) :
    unitOf n u = none := by
  rw [unitOf_eq_none_iff]
  unfold unitError at h
  split at h
  · simp at h
  · omega

theorem preselOf_eq_none {f : BitVec 4} (h : cfg.nbq < f.toNat) : preselOf cfg f = none := by
  unfold preselOf
  rw [if_neg (by omega), dif_neg (by omega)]

theorem presetOf_eq_none {f : BitVec 4} (h : cfg.npreset ≤ f.toNat) : presetOf cfg f = none := by
  unfold presetOf
  rw [dif_neg (by omega)]

/-- A register that is not marked RW takes no write (R73, R127). -/
theorem regWrite_eq_none {r : RegName cfg} (h : r.writable = false) (s : State cfg) (v : Word) :
    regWrite s r v = none := by
  cases r <;> simp [RegName.writable] at h <;> rfl

theorem execRdreg_unmapped {a : BitVec 16} (h : regAt cfg a = none) (rd : Reg) (s : State cfg) :
    execRdreg rd a s = illegal (.rdreg rd a) s := by simp only [execRdreg, h]

theorem execWrreg_unmapped {a : BitVec 16} (h : regAt cfg a = none) (rs1 : Reg) (s : State cfg) :
    execWrreg rs1 a s = illegal (.wrreg rs1 a) s := by simp only [execWrreg, h]

theorem execWrreg_readOnly {a : BitVec 16} {r : RegName cfg} (ha : regAt cfg a = some r) (hr : r.writable = false)
    (rs1 : Reg) (s : State cfg) : execWrreg rs1 a s = illegal (.wrreg rs1 a) s := by
  simp only [execWrreg, ha, regWrite_eq_none hr]

/-- LM.CFG has two operands to check: the meter and the pre-filter. -/
theorem execLmCfg_outOfRange {m : UnitField} {presel : BitVec 4}
    (h : unitOf cfg.nlm m = none ∨ preselOf cfg presel = none) (rs1 : Reg) (hold : Word) (s : State cfg) :
    execLmCfg m rs1 presel hold s = illegal (.lmCfg m rs1 presel hold) s := by
  unfold execLmCfg
  split
  · rename_i hm hp
    rcases h with h | h
    · rw [h] at hm; cases hm
    · rw [h] at hp; cases hp
  · rfl

/-- A command that fails a check of R107 takes the exception on its own word, at every configuration. -/
theorem execAt_of_not_wellFormed {i : Instr} (h : i.wellFormedAt cfg = false) (s : State cfg) :
    execAt i s = illegal i s := by
  unfold Instr.wellFormedAt at h
  cases i
  case nop | reset | setfs | cstep | ldi | mov | setk | tlookup | rvParam | rvEtime | rvProc | rvRst =>
    simp [Instr.rangeErrorAt] at h
  case rdreg rd a =>
    refine execRdreg_unmapped ?_ rd s
    cases ha : regAt cfg a with
    | none => rfl
    | some r => simp [Instr.rangeErrorAt, ha] at h
  case wrreg rs1 a =>
    cases ha : regAt cfg a with
    | none => exact execWrreg_unmapped ha rs1 s
    | some r =>
      refine execWrreg_readOnly ha ?_ rs1 s
      simpa [Instr.rangeErrorAt, ha] using h
  case lmCfg m rs1 presel hold =>
    refine execLmCfg_outOfRange ?_ rs1 hold s
    by_cases hm : m.toNat < cfg.nlm
    · refine .inr (preselOf_eq_none ?_)
      simpa [Instr.rangeErrorAt, hm] using h
    · exact .inl ((unitOf_eq_none_iff m).2 (by omega))
  case rvChar p =>
    have hp : presetOf cfg p = none := presetOf_eq_none (by simpa [Instr.rangeErrorAt] using h)
    simp only [execAt, execRvChar, hp]
  case dlRot | dlWr | dlRd | dlRdi | dlAp | dlClr =>
    simp only [execAt, execDlRot, execDlWr, execDlRd, execDlRdi, execDlAp, execDlClr, unitOf_eq_none_of_unitError h]
  case opSet | opLp | opHp | opRst | bqCfg | bqProc | bqRst =>
    simp only [execAt, execOpSet, execOpLp, execOpHp, execOpRst, execBqCfg, execBqProc, execBqRst,
      unitOf_eq_none_of_unitError h]
  case envMode | envTime | envSus | envTick | envRdf | envRst =>
    simp only [execAt, execEnvMode, execEnvTime, execEnvSus, execEnvTick, execEnvRdf, execEnvRst,
      unitOf_eq_none_of_unitError h]
  case lmProc | lmRd | lmRst =>
    simp only [execAt, execLmProc, execLmRd, execLmRst, unitOf_eq_none_of_unitError h]

/-! ## Words whose unit index is out of range -/

theorem fieldsOf_opcode_toNat (c : CommandWord) : (fieldsOf c).opcode.toNat = c.toNat / 2 ^ 56 := by
  simp only [fieldsOf, BitVec.extractLsb'_toNat, Nat.shiftRight_eq_div_pow]
  exact Nat.mod_eq_of_lt (by have := c.isLt; omega)

theorem fieldsOf_unit_toNat (c : CommandWord) : (fieldsOf c).unit.toNat = c.toNat / 2 ^ 32 % 256 := by
  simp only [fieldsOf, BitVec.extractLsb'_toNat, Nat.shiftRight_eq_div_pow]

/-- The opcode and the unit index lie in a bank's rows of R105 and at or above the bank's count (R104, check (3)). -/
def UnitOutOfBank (cfg : Params) (o u : Nat) : Prop :=
  (0x10 ≤ o ∧ o ≤ 0x15 ∧ cfg.ndl ≤ u) ∨ (0x20 ≤ o ∧ o ≤ 0x23 ∧ cfg.nop ≤ u) ∨ (0x24 ≤ o ∧ o ≤ 0x26 ∧ cfg.nbq ≤ u)
    ∨ (0x30 ≤ o ∧ o ≤ 0x35 ∧ cfg.nenv ≤ u) ∨ (0x40 ≤ o ∧ o ≤ 0x43 ∧ cfg.nlm ≤ u)

/-- A command read from such fields fails its range check: every row of a bank hands its unit field to the check. -/
theorem rangeErrorAt_ne_none {f : Fields} {i : Instr} (hi : operandsOf f = some i)
    (h : UnitOutOfBank cfg f.opcode.toNat f.unit.toNat) : i.rangeErrorAt cfg ≠ none := by
  unfold operandsOf at hi
  generalize f.opcode.toNat = o at hi h
  rcases h with ⟨h1, h2, hu⟩ | ⟨h1, h2, hu⟩ | ⟨h1, h2, hu⟩ | ⟨h1, h2, hu⟩ | ⟨h1, h2, hu⟩ <;>
  · have hu' := not_lt.2 hu
    interval_cases o <;>
    · simp only [Option.some.injEq, Option.map_eq_some_iff] at hi
      first
        | (subst hi; simp [Instr.rangeErrorAt, unitError, hu'])
        | (obtain ⟨_, _, rfl⟩ := hi; simp [Instr.rangeErrorAt, unitError, hu'])

/-- So a word with such fields fails a decode check. -/
theorem decodeAt_unitOutOfBank {c : CommandWord} (h : UnitOutOfBank cfg (c.toNat / 2 ^ 56) (c.toNat / 2 ^ 32 % 256)) :
    ∃ e, decodeAt cfg c = .error e := by
  rw [← fieldsOf_opcode_toNat, ← fieldsOf_unit_toNat] at h
  unfold decodeAt
  split
  · exact ⟨_, rfl⟩
  · split
    · split
      · exact ⟨_, rfl⟩
      · rename_i i hi
        split
        · exact absurd ‹_› (rangeErrorAt_ne_none hi h)
        · exact ⟨_, rfl⟩
    · exact ⟨_, rfl⟩

/-! ## One step on a presented word -/

/-- The step on a word that decodes runs its command, the word taken off the host's list (R34, R107). -/
theorem stepAt_command_ok {s : State cfg} {c : CommandWord} {rest : List HostEvent} {i : Instr}
    (hs : s.input = .command c :: rest) (hc : decodeAt cfg c = .ok i) :
    stepAt s = execAt i { s with input := rest } := by
  simp only [stepAt, hs, stepCommandAt, hc]

/-- The step on a word that fails a decode check takes the exception on that word (R271). -/
theorem stepAt_command_error {s : State cfg} {c : CommandWord} {rest : List HostEvent} {e : DecodeError}
    (hs : s.input = .command c :: rest) (hc : decodeAt cfg c = .error e) :
    stepAt s = .next (raiseIllegal c { s with input := rest }) := by
  simp only [stepAt, hs, stepCommandAt, hc]

/-! ## Every step answers -/

/-- The outcome is a next state: neither a fault nor a refusal. -/
def Answers (r : StepResult cfg) : Prop := ∃ t, r = .next t

theorem answers_next (t : State cfg) : Answers (.next t) := ⟨t, rfl⟩

theorem answers_complete (s : State cfg) : Answers (complete s) := answers_next _

theorem answers_illegal (i : Instr) (s : State cfg) : Answers (illegal i s) := answers_next _

/-- Every command completes or takes the exception, at every configuration and from every state (R35, R270). -/
theorem execAt_answers (i : Instr) (s : State cfg) : Answers (execAt i s) := by
  cases i
  case nop | reset | setfs | cstep | ldi | mov | setk | tlookup | rvParam | rvEtime | rvProc | rvRst =>
    exact answers_complete _
  case rdreg rd a =>
    simp only [execAt, execRdreg]
    split
    · exact answers_complete _
    · exact answers_illegal _ _
  case wrreg rs1 a =>
    simp only [execAt, execWrreg]
    split
    · split
      · exact answers_complete _
      · exact answers_illegal _ _
    · exact answers_illegal _ _
  case dlRot | dlWr | dlRd | dlRdi | dlAp | dlClr =>
    simp only [execAt, execDlRot, execDlWr, execDlRd, execDlRdi, execDlAp, execDlClr]
    split
    · exact answers_complete _
    · exact answers_illegal _ _
  case opSet | opLp | opHp | opRst | bqCfg | bqProc | bqRst =>
    simp only [execAt, execOpSet, execOpLp, execOpHp, execOpRst, execBqCfg, execBqProc, execBqRst]
    split
    · exact answers_complete _
    · exact answers_illegal _ _
  case envMode | envTime | envSus | envTick | envRdf | envRst =>
    simp only [execAt, execEnvMode, execEnvTime, execEnvSus, execEnvTick, execEnvRdf, execEnvRst]
    split
    · exact answers_complete _
    · exact answers_illegal _ _
  case lmCfg | lmProc | lmRd | lmRst | rvChar =>
    simp only [execAt, execLmCfg, execLmProc, execLmRd, execLmRst, execRvChar]
    split
    · exact answers_complete _
    · exact answers_illegal _ _

theorem stepCommandAt_answers (c : CommandWord) (s : State cfg) : Answers (stepCommandAt c s) := by
  unfold stepCommandAt
  split
  · exact execAt_answers _ s
  · exact answers_next _

/-- Every step answers a next state: a command by its meaning, the UI writer's actions and the empty list at once. -/
theorem stepAt_answers (s : State cfg) : Answers (stepAt s) := by
  unfold stepAt
  split
  · exact answers_next _
  · exact stepCommandAt_answers _ _
  · exact answers_next _
  · exact answers_next _

end Sys2Proof.Machine

namespace Sys2Proof.Proofs

open Sys2Proof.Machine

/-- Settles O5: the step on a presented word that decodes, at the defaults. -/
theorem stepRunsTheDecodedCommand : Obligations.StepRunsTheDecodedCommand := by
  intro s c rest i hs hc
  rw [← stepAt_default, ← execAt_default]
  exact stepAt_command_ok hs hc

/-- Settles O9: every meaning ends in `complete` or in the exception, and both answer a next state. -/
theorem everyStepAnswersANextState : Obligations.EveryStepAnswersANextState := fun s => stepAt_answers s

/-- Settles O7: a command that fails a check takes the exception; a unit index at or above its bank's count fails check
(3) whatever the counts; the machine of the defaults is the one at the default configuration. -/
theorem outOfRangeOperandTakesTheException : Obligations.OutOfRangeOperandTakesTheException := by
  refine ⟨fun cfg i s h => ?_, ?_, fun i s => ⟨execAt_default i s, stepAt_default s⟩⟩
  · rw [execAt_of_not_wellFormed h, illegal_eq]
  · intro cfg s c rest hs o u hu
    obtain ⟨e, he⟩ := decodeAt_unitOutOfBank (cfg := cfg) hu
    rw [stepAt_command_error hs he]
    rfl

end Sys2Proof.Proofs
end

section
/-! SUPPORT. The order of binary32 patterns and the clamp (spec/00_scope.md R26, R27). -/

namespace Sys2Proof.Machine

open Sys2Proof.Laws

theorem fle_iff {a b : F32} : fle a b = true ↔ isNaN a = false ∧ isNaN b = false ∧ forder a ≤ forder b := by
  simp [fle, and_assoc]

theorem flt_iff {a b : F32} : flt a b = true ↔ isNaN a = false ∧ isNaN b = false ∧ forder a < forder b := by
  simp [flt, and_assoc]

/-- Two patterns that are no NaN are ordered one way or the other. -/
theorem flt_of_not_fle {a b : F32} (ha : isNaN a = false) (hb : isNaN b = false) (h : fle a b ≠ true) :
    flt b a = true := by
  exact flt_iff.2 ⟨hb, ha, by_contra fun hlt => h (fle_iff.2 ⟨ha, hb, not_lt.1 hlt⟩)⟩

/-- A pattern is its sign and its magnitude bits. -/
theorem eq_of_fsign_fmag {a b : F32} (hs : fsign a = fsign b) (hm : fmag a = fmag b) : a = b := by
  apply BitVec.eq_of_toNat_eq
  have ha := a.isLt
  have hb := b.isLt
  simp only [fsign, fmag, decide_eq_decide] at hs hm
  omega

/-- The magnitude bits are the distance from zero in the order. -/
theorem fmag_eq_natAbs (a : F32) : fmag a = (forder a).natAbs := by
  unfold forder
  split <;> omega

/-- Away from zero the sign is which side of zero the pattern stands on. -/
theorem fsign_eq_decide {a : F32} (h : forder a ≠ 0) : fsign a = decide (forder a < 0) := by
  unfold forder at h ⊢
  cases hs : fsign a with
  | false => simp
  | true =>
    rw [hs, if_pos rfl] at h
    rw [if_pos rfl, eq_comm, decide_eq_true_eq]
    omega

/-- Patterns at the same place of the order are equal, the two zeros aside. -/
theorem eq_of_forder_eq {a b : F32} (h : forder a = forder b) (h0 : forder b ≠ 0) : a = b := by
  refine eq_of_fsign_fmag ?_ (by rw [fmag_eq_natAbs, fmag_eq_natAbs, h])
  rw [fsign_eq_decide h0, fsign_eq_decide (h ▸ h0), h]

/-- A pattern that is no NaN stands between the infinities. -/
theorem forder_bounds {a : F32} (h : isNaN a = false) : -infMag ≤ forder a ∧ forder a ≤ infMag := by
  have hm : fmag a ≤ infMag := not_lt.1 (of_decide_eq_false h)
  unfold forder
  split <;> omega

/-! ## The clamp -/

/-- A NaN gives the lower bound. -/
theorem clampf_nan {v lo hi : F32} (hv : isNaN v = true) : clampf v lo hi = lo := by
  simp [clampf, fge, fle, hv]

/-- Only minus infinity itself is at or below minus infinity. -/
theorem eq_minusInf_of_fle {a : F32} (h : fle a fMinusInf = true) : fMinusInf = a := by
  obtain ⟨ha, -, hle⟩ := fle_iff.1 h
  have hinf : forder fMinusInf = -infMag := by decide
  have hord : forder a = -infMag := le_antisymm (hinf ▸ hle) (forder_bounds ha).1
  exact eq_of_forder_eq (hinf.trans hord.symm) (by rw [hord]; decide)

/-- Only plus infinity itself is at or above plus infinity. -/
theorem eq_inf_of_fle {a : F32} (h : fle fInf a = true) : fInf = a := by
  obtain ⟨-, ha, hle⟩ := fle_iff.1 h
  have hinf : forder fInf = infMag := by decide
  have hord : forder a = infMag := le_antisymm (forder_bounds ha).2 (hinf ▸ hle)
  exact eq_of_forder_eq (hinf.trans hord.symm) (by rw [hord]; decide)

theorem fle_inf {a : F32} (h : isNaN a = false) : fle a fInf = true :=
  fle_iff.2 ⟨h, by decide, (forder_bounds h).2⟩

/-- Minus infinity gives the lower bound, also where that is minus infinity itself. -/
theorem clampf_minusInf {lo hi : F32} (h : fle lo hi = true) : clampf fMinusInf lo hi = lo := by
  by_cases hle : fle lo fMinusInf = true
  · obtain rfl := eq_minusInf_of_fle hle
    exact clampf_of_inRange ⟨hle, h⟩
  · exact if_neg hle

/-- Plus infinity gives the upper bound, also where that is plus infinity itself. -/
theorem clampf_inf {lo hi : F32} (h : fle lo hi = true) : clampf fInf lo hi = hi := by
  have hlo : fge fInf lo = true := fle_inf (fle_iff.1 h).1
  by_cases hle : fle fInf hi = true
  · obtain rfl := eq_inf_of_fle hle
    exact clampf_of_inRange ⟨hlo, hle⟩
  · unfold clampf
    rw [if_pos hlo, if_neg hle]

end Sys2Proof.Machine

namespace Sys2Proof.Proofs

open Sys2Proof.Machine Sys2Proof.Laws

/-- Settles O21: the definition, and what each kind of pattern makes of it. -/
theorem clampBoundsEveryPattern : Obligations.ClampBoundsEveryPattern := fun _ _ _ h =>
  ⟨rfl, clampf_inRange h, clampf_of_inRange, clampf_nan, clampf_minusInf h, clampf_inf h, rfl, by decide⟩

end Sys2Proof.Proofs
end

section
/-! SUPPORT. The layout of the reverberator's delay line at every configuration, preset and legal rate
(spec/00_scope.md R12, spec/45_reverberator.md R244), and where its echo taps fall (R245). -/

namespace Sys2Proof.Machine

variable {cfg : Params}

/-! ## The boundaries -/

theorem boundary_succ (p : Fin cfg.npreset) (fs i : Nat) :
    boundary cfg p fs (i + 1) = boundary cfg p fs i + regionDelay cfg p fs i + 1 := rfl

/-- The regions before the echo take their delays from the preset. -/
theorem regionDelay_preset (p : Fin cfg.npreset) (fs : Nat) (r : Fin 6) :
    regionDelay cfg p fs r.val = max 1 ((cfg.preset p).len48[r] * fs / 48000) := dif_pos r.isLt

/-- The echo region's delay does not depend on the preset. -/
theorem regionDelay_echo (p : Fin cfg.npreset) (fs : Nat) : regionDelay cfg p fs 6 = cfg.echoDelay fs := rfl

theorem boundary_mono (p : Fin cfg.npreset) (fs : Nat) : Monotone (boundary cfg p fs) :=
  monotone_nat_of_le_succ fun i => by rw [boundary_succ]; omega

/-- Every boundary is inside line 0, so far below 2^32 (R12). -/
theorem boundary_lt (p : Fin cfg.npreset) {fs : Nat} (h : fs ≤ cfg.fsMax) {i : Nat} (hi : i ≤ 7) :
    boundary cfg p fs i < 2 ^ 20 := by
  have h7 := cfg.boundary_le p h
  have hcap := cfg.cap_bounds cfg.line0
  have hmono := boundary_mono p fs hi
  omega

/-- The boundary registers hold the boundaries exactly (R244). -/
theorem layoutOf_toNat (p : Fin cfg.npreset) {fs : Nat} (h : fs ≤ cfg.fsMax) (r : Fin 8) :
    (layoutOf cfg p fs)[r].toNat = boundary cfg p fs r.val := by
  have hr : r.val ≤ 7 := by omega
  have hb := boundary_lt p h hr
  have he : (layoutOf cfg p fs)[r] = BitVec.ofNat 32 (boundary cfg p fs r.val) := Vector.getElem_ofFn _
  rw [he, BitVec.toNat_ofNat]
  exact Nat.mod_eq_of_lt (by omega)

/-- At the defaults the longest layout is HALL's at 96000 Hz. -/
theorem default_boundary_le (p : Fin Config.NPRESET) {fs : Nat} (h : fs ≤ 96000) :
    boundary Config.default p fs 7 ≤ 70007 := by
  have hmax : ∀ p : Fin Config.NPRESET, boundary Config.default p 96000 7 ≤ 70007 := by decide
  exact (Config.defaultRaw.boundaryOf_mono _ h 7).trans (hmax p)

/-- A record whose layout does not fit line 0 at some preset and legal rate is refused (R12, U8). -/
theorem coreOf_eq_none {r : RawParams} {q : Preset} {fs : Nat} (hq : q ∈ r.presets) (hfs : fs ≤ r.fsMax)
    (hlong : 2 ^ r.dlLog2.getD 0 0 - 1 < r.boundaryOf q fs 7) : coreOf r = none := by
  have hcheck : ¬ r.check = true := by
    intro hc
    simp only [RawParams.check, Bool.and_eq_true, List.all_eq_true] at hc
    have hfit := hc.2 q hq
    simp only [presetOk, Bool.and_eq_true, decide_eq_true_eq] at hfit
    have hmono := r.boundaryOf_mono q hfs 7
    omega
  simp only [coreOf, Params.ofRaw, dif_neg hcheck, Option.map_none]

/-! ## The echo region -/

/-- The echo time is the request clamped to the region, as a UQ20.12 pattern (R245): nothing is lost in the register. -/
theorem echoTimeOf_toNat (req : Word) {fs : Nat} (h : cfg.echoDelay fs < 2 ^ 20) :
    (echoTimeOf cfg req fs).toNat = clampu req.toNat (3 * 4096) ((cfg.echoDelay fs - 1) * 4096) := by
  unfold echoTimeOf
  rw [BitVec.toNat_ofNat]
  refine Nat.mod_eq_of_lt ?_
  unfold clampu
  omega

theorem four_le_echoDelay (r : RawParams) (fs : Nat) : 4 ≤ r.echoDelay fs := Nat.le_max_left ..

/-- In a state whose rate and layout registers agree, the echo region starts at S[6] and ends a delay further. -/
theorem regionEnd_echo {s : State cfg} (hrate : s.RateInv) (hrev : s.ReverbInv) :
    regionEnd s 6 = regionStart s 6 + cfg.echoDelay s.fs.toNat := by
  obtain ⟨-, hmax, -⟩ := hrate
  obtain ⟨hs, -⟩ := hrev
  have hend : regionEnd s 6 = boundary cfg s.rv.preset s.fs.toNat 7 - 1 := by
    unfold regionEnd
    rw [hs]
    exact congrArg (· - 1) (layoutOf_toNat _ hmax 7)
  have hstart : regionStart s 6 = boundary cfg s.rv.preset s.fs.toNat 6 := by
    unfold regionStart
    rw [hs]
    exact layoutOf_toNat _ hmax 6
  rw [hend, hstart, boundary_succ, regionDelay_echo, Nat.add_sub_cancel]

/-- The cells of the main echo tap lie inside the echo region, and each later tap is no older (R245). -/
theorem echoTaps_inside {s : State cfg} (hrate : s.RateInv) (hrev : s.ReverbInv) :
    regionStart s 6 + s.rv.etime.toNat / 4096 + 1 ≤ regionEnd s 6 ∧ 3 * 4096 ≤ s.rv.etime.toNat := by
  have hend := regionEnd_echo hrate hrev
  obtain ⟨-, hmax, -⟩ := hrate
  obtain ⟨-, htime, -⟩ := hrev
  have hfour := four_le_echoDelay cfg.toRawParams s.fs.toNat
  have hlt : cfg.echoDelay s.fs.toNat < 2 ^ 20 := by
    have h7 := boundary_lt s.rv.preset hmax (le_refl 7)
    rw [boundary_succ, regionDelay_echo] at h7
    omega
  have htime' := echoTimeOf_toNat s.rv.etimereq hlt
  rw [← htime] at htime'
  unfold clampu at htime'
  omega

end Sys2Proof.Machine

namespace Sys2Proof.Proofs

open Sys2Proof.Machine

/-- Settles O57: the layout's equations and bound, the exact registers, the default line, the refusal of a record that
breaks R12, and the echo taps. -/
theorem reverbLayoutFitsTheLine : Obligations.ReverbLayoutFitsTheLine := by
  refine ⟨?_, fun p _ h => default_boundary_le p h, rfl,
    fun _ _ _ hq _ hmax hlong => coreOf_eq_none hq hmax hlong, ?_⟩
  · intro cfg p fs _ hmax s
    refine ⟨rfl, fun r => ?_, rfl, cfg.boundary_le p hmax, layoutOf_toNat p hmax⟩
    simp only [s, boundary_succ, regionDelay_preset]
  · intro s hrate hrev time
    obtain ⟨hinside, hold⟩ := echoTaps_inside hrate hrev
    exact ⟨hinside, by omega, by omega, by omega⟩

end Sys2Proof.Proofs
end

section
/-! SUPPORT. The named properties of the NUM functions (spec/00_scope.md R30), each function piece by piece: which bracketed
piece an argument falls in, the range of that piece, and the separator between two pieces. -/

namespace Sys2Proof.Machine

open Sys2Proof.Laws

/-! ## Signs, magnitudes and order -/

theorem fle_refl {a : F32} (h : isNaN a = false) : fle a a = true := fle_iff.2 ⟨h, h, le_rfl⟩

theorem isZero_iff {a : F32} : isZero a = true ↔ forder a = 0 := by
  rw [isZero, decide_eq_true_eq, fmag_eq_natAbs, Int.natAbs_eq_zero]

theorem isNaN_of_isZero {a : F32} (h : isZero a = true) : isNaN a = false := by
  have hm : fmag a = 0 := of_decide_eq_true h
  simp [isNaN, hm]

/-- Above zero: not a zero, and no sign. -/
theorem sign_of_forder_pos {a : F32} (h : 0 < forder a) : isZero a = false ∧ fsign a = false :=
  ⟨Bool.eq_false_iff.2 fun hz => h.ne' (isZero_iff.1 hz), by rw [fsign_eq_decide h.ne', decide_eq_false h.not_gt]⟩

/-- Below zero: not a zero, and a sign. -/
theorem sign_of_forder_neg {a : F32} (h : forder a < 0) : isZero a = false ∧ fsign a = true :=
  ⟨Bool.eq_false_iff.2 fun hz => h.ne (isZero_iff.1 hz), by rw [fsign_eq_decide h.ne, decide_eq_true h]⟩

/-- Between two arguments from zero on the magnitude bits follow the order. -/
theorem fmag_le_of_fle {x y : F32} (hx : 0 ≤ forder x) (h : fle x y = true) : fmag x ≤ fmag y := by
  have hxy := (fle_iff.1 h).2.2
  rw [fmag_eq_natAbs, fmag_eq_natAbs]
  omega

theorem isNaN_of_isFinite {a : F32} (h : isFinite a = true) : isNaN a = false := by
  have hm : fmag a < infMag := of_decide_eq_true h
  exact decide_eq_false (by omega)

/-- A value between finite bounds is finite. -/
theorem isFinite_of_inRange {a : F32} (h : inRange fMinusMaxFinite fMaxFinite a) : isFinite a = true := by
  have elo : forder fMinusMaxFinite = -0x7F7FFFFF := by decide
  have ehi : forder fMaxFinite = 0x7F7FFFFF := by decide
  have hlo := (fle_iff.1 h.1).2.2
  have hhi := (fle_iff.1 h.2).2.2
  refine decide_eq_true ?_
  rw [fmag_eq_natAbs, infMag]
  omega

/-! ## NaN -/

theorem fmag_pack_of_lt {neg : Bool} {m : Nat} (h : m < 0x80000000) : fmag (pack neg m) = m := by
  simp only [fmag, pack, BitVec.toNat_ofNat]
  split <;> omega

theorem fsign_pack_of_lt {neg : Bool} {m : Nat} (h : m < 0x80000000) : fsign (pack neg m) = neg := by
  cases neg
  · exact fsign_pack h
  · simp only [fsign, pack, BitVec.toNat_ofNat, if_true, decide_eq_true_eq]
    omega

theorem fmag_quietNaN (c : BitVec 23) : fmag (quietNaN c) = 0x7FC00000 + c.toNat % 0x400000 :=
  fmag_pack_of_lt (by omega)

theorem isNaN_quietNaN (c : BitVec 23) : isNaN (quietNaN c) = true := by
  refine decide_eq_true ?_
  rw [fmag_quietNaN, infMag]
  omega

theorem isNaN_asNaN (v : F32) : isNaN (asNaN v) = true := by
  unfold asNaN
  split
  · assumption
  · exact isNaN_quietNaN _

/-! ## NUM.exp -/

theorem numExp_nan {x : F32} (h : isNaN x = true) : numExp x = asNaN (Config.rawExp x) := by simp [numExp, h]

theorem numExp_zero {x : F32} (h : isZero x = true) : numExp x = fOne := by
  simp [numExp, isNaN_of_isZero h, h]

theorem numExp_neg {x : F32} (hn : isNaN x = false) (h : forder x < 0) :
    numExp x = risingBelowZero Config.rawExp fZero fOne x := by
  simp [numExp, hn, sign_of_forder_neg h]

theorem numExp_pos {x : F32} (hn : isNaN x = false) (h : 0 < forder x) :
    numExp x = risingOn Config.rawExp fZero fInf fOne fInf x := by
  simp [numExp, hn, sign_of_forder_pos h]

/-- NUM-exp-range. -/
theorem numExp_inRange {x : F32} (hn : isNaN x = false) (h : forder x ≤ 0) : inRange fZero fOne (numExp x) := by
  rcases h.lt_or_eq with hneg | hzero
  · rw [numExp_neg hn hneg]
    exact risingBelowZero_inRange _ _ (by decide)
  · rw [numExp_zero (isZero_iff.2 hzero)]
    decide

/-- From zero on, the exponential is at least one. -/
theorem one_le_numExp {x : F32} (hn : isNaN x = false) (h : 0 ≤ forder x) : fle fOne (numExp x) = true := by
  rcases h.lt_or_eq with hpos | hzero
  · rw [numExp_pos hn hpos]
    exact (risingOn_inRange _ _ _ _ (by decide)).1
  · rw [numExp_zero (isZero_iff.2 hzero.symm)]
    decide

/-- NUM-exp-mono: on each side of zero by the bracketing, across zero by way of one. -/
theorem numExp_mono {x y : F32} (h : fle x y = true) : fle (numExp x) (numExp y) = true := by
  obtain ⟨hx, hy, hxy⟩ := fle_iff.1 h
  rcases lt_or_ge 0 (forder x) with hx0 | hx0
  · rw [numExp_pos hx hx0, numExp_pos hy (hx0.trans_le hxy)]
    exact risingOn_mono _ _ _ (by decide) (fmag_le_of_fle hx0.le h)
  rcases lt_or_ge (forder y) 0 with hy0 | hy0
  · rw [numExp_neg hx (hxy.trans_lt hy0), numExp_neg hy hy0]
    refine risingBelowZero_mono _ (by decide) ?_
    rw [fmag_eq_natAbs, fmag_eq_natAbs]
    omega
  · exact fle_trans (numExp_inRange hx hx0).2 (one_le_numExp hy hy0)

/-! ## NUM.tan -/

section

variable {cfg : Params} {x y : F32}

/-- The value where the two halves of the tangent's range meet is in the range of NUM-tan-pos. -/
theorem tanKnee_inRange : inRange fTwoPowM17 fMaxFinite tanKnee := clampf_inRange (by decide)

theorem zero_le_tanKnee : fle fZero tanKnee = true := fle_trans (by decide) tanKnee_inRange.1

theorem numTan_nan (h : isNaN x = true) : numTan cfg x = asNaN (Config.rawTan x) := by simp [numTan, h]

theorem isZero_fZero : isZero fZero = true := by decide

theorem numTan_zero : numTan cfg fZero = fZero := by simp [numTan, isNaN_of_isZero isZero_fZero]

/-- The tangent of either zero is a zero. -/
theorem numTan_isZero (h : isZero x = true) : inRange fZero fZero (numTan cfg x) := by
  by_cases h0 : x = fZero
  · rw [h0, numTan_zero]
    decide
  · rw [show numTan cfg x = clampf (Config.rawTan x) fZero fZero by simp [numTan, isNaN_of_isZero h, h0, h]]
    exact clampf_inRange (by decide)

/-- Above zero and inside the range, which piece answers. -/
theorem numTan_pos (h : 0 < forder x) (hb : fle x (tanBound cfg) = true) :
    numTan cfg x =
      if fge x fTwoPowM16 then risingOn Config.rawTan fTwoPowM16 (tanBound cfg) tanKnee fMaxFinite x
      else if fge (tanBound cfg) fTwoPowM16 then risingOn Config.rawTan fZero fTwoPowM16 fZero tanKnee x
      else risingOn Config.rawTan fZero (tanBound cfg) fZero fMaxFinite x := by
  obtain ⟨hn, -, -⟩ := fle_iff.1 hb
  have hz := (sign_of_forder_pos h).1
  have h0 : x ≠ fZero := fun he => by simp [he, isZero_fZero] at hz
  have hge : fge x fZero = true := fle_iff.2 ⟨by decide, hn, h.le⟩
  simp only [numTan, hn, hz, h0, hge, hb, Bool.and_self, if_true, if_false, Bool.false_eq_true]

/-- The piece from 2^-16 on. -/
theorem numTan_upper (hx : fle fTwoPowM16 x = true) (hb : fle x (tanBound cfg) = true) :
    numTan cfg x = risingOn Config.rawTan fTwoPowM16 (tanBound cfg) tanKnee fMaxFinite x := by
  have h : 0 < forder x := lt_of_lt_of_le (by decide) (fle_iff.1 hx).2.2
  rw [numTan_pos h hb, fge, if_pos hx]

/-- The piece below 2^-16, where the range reaches that far. -/
theorem numTan_lower (h : 0 < forder x) (hx : fle fTwoPowM16 x ≠ true) (hb : fle x (tanBound cfg) = true)
    (hk : fle fTwoPowM16 (tanBound cfg) = true) :
    numTan cfg x = risingOn Config.rawTan fZero fTwoPowM16 fZero tanKnee x := by
  rw [numTan_pos h hb, fge, if_neg hx, fge, if_pos hk]

/-- The one piece of a range that ends below 2^-16. -/
theorem numTan_short (h : 0 < forder x) (hb : fle x (tanBound cfg) = true)
    (hk : fle fTwoPowM16 (tanBound cfg) ≠ true) :
    numTan cfg x = risingOn Config.rawTan fZero (tanBound cfg) fZero fMaxFinite x := by
  rw [numTan_pos h hb, fge, if_neg fun hx => hk (fle_trans hx hb), fge, if_neg hk]

/-- NUM-tan-pos. -/
theorem tanKnee_le_numTan (hx : fle fTwoPowM16 x = true) (hb : fle x (tanBound cfg) = true) :
    inRange tanKnee fMaxFinite (numTan cfg x) := by
  rw [numTan_upper hx hb]
  exact risingOn_inRange _ _ _ _ tanKnee_inRange.2

/-- NUM-tan-range. -/
theorem numTan_inRange (hx : fle fZero x = true) (hb : fle x (tanBound cfg) = true) :
    inRange fZero fMaxFinite (numTan cfg x) := by
  rcases ((fle_iff.1 hx).2.2).lt_or_eq with hpos | hzero
  · by_cases hk : fle fTwoPowM16 (tanBound cfg) = true
    · by_cases hx16 : fle fTwoPowM16 x = true
      · have h := tanKnee_le_numTan hx16 hb
        exact ⟨fle_trans zero_le_tanKnee h.1, h.2⟩
      · rw [numTan_lower hpos hx16 hb hk]
        have h := risingOn_inRange Config.rawTan fZero fTwoPowM16 x zero_le_tanKnee
        exact ⟨h.1, fle_trans h.2 tanKnee_inRange.2⟩
    · rw [numTan_short hpos hb hk]
      exact risingOn_inRange _ _ _ _ (by decide)
  · have h := numTan_isZero (cfg := cfg) (isZero_iff.2 hzero.symm)
    exact ⟨h.1, fle_trans h.2 (by decide)⟩

/-- NUM-tan-mono: inside each piece by the bracketing, from a zero by way of zero, across 2^-16 by way of the knee. -/
theorem numTan_mono (hx : fle fZero x = true) (hxy : fle x y = true) (hy : fle y (tanBound cfg) = true) :
    fle (numTan cfg x) (numTan cfg y) = true := by
  have hb := fle_trans hxy hy
  have hx0 : 0 ≤ forder x := (fle_iff.1 hx).2.2
  have hmag := fmag_le_of_fle hx0 hxy
  rcases hx0.lt_or_eq with hpos | hzero
  · have hpos' : 0 < forder y := hpos.trans_le (fle_iff.1 hxy).2.2
    by_cases hk : fle fTwoPowM16 (tanBound cfg) = true
    · by_cases hx16 : fle fTwoPowM16 x = true
      · rw [numTan_upper hx16 hb, numTan_upper (fle_trans hx16 hxy) hy]
        exact risingOn_mono _ _ _ tanKnee_inRange.2 hmag
      · by_cases hy16 : fle fTwoPowM16 y = true
        · rw [numTan_lower hpos hx16 hb hk]
          exact fle_trans (risingOn_inRange _ _ _ _ zero_le_tanKnee).2 (tanKnee_le_numTan hy16 hy).1
        · rw [numTan_lower hpos hx16 hb hk, numTan_lower hpos' hy16 hy hk]
          exact risingOn_mono _ _ _ zero_le_tanKnee hmag
    · rw [numTan_short hpos hb hk, numTan_short hpos' hy hk]
      exact risingOn_mono _ _ _ (by decide) hmag
  · exact fle_trans (numTan_isZero (isZero_iff.2 hzero.symm)).2 (numTan_inRange (fle_trans hx hxy) hy).1

end

/-! ## NUM.log10 -/

section

variable {x y : F32}

/-- The logarithm of 2^-30, from where on it is finite, is not positive. -/
theorem logKnee_inRange : inRange fMinusMaxFinite fZero logKnee := clampf_inRange (by decide)

theorem minusInf_le_logKnee : fle fMinusInf logKnee = true := fle_trans (by decide) logKnee_inRange.1

theorem numLog10_nan (h : isNaN x = true) : numLog10 x = asNaN (Config.rawLog10 x) := by simp [numLog10, h]

theorem numLog10_one : numLog10 fOne = fZero := by simp [numLog10, show isNaN fOne = false by decide]

/-- Above one and finite. -/
theorem numLog10_above_one (h : flt fOne x = true) (hf : isFinite x = true) :
    numLog10 x = risingOn Config.rawLog10 fOne fMaxFinite fZero fMaxFinite x := by
  have hm : fmag x < infMag := of_decide_eq_true hf
  have hi : isInf x = false := decide_eq_false (by omega)
  have h1 : x ≠ fOne := fun he => by rw [he] at h; exact absurd h (by decide)
  simp [numLog10, isNaN_of_isFinite hf, h1, hi, fgt, h]

/-- At plus infinity. -/
theorem numLog10_inf :
    numLog10 fInf = clampf (Config.rawLog10 fInf) (risingOn Config.rawLog10 fOne fMaxFinite fZero fMaxFinite fMaxFinite)
      fInf := by
  have e : isNaN fInf = false ∧ fInf ≠ fOne ∧ isInf fInf = true ∧ fsign fInf = false := by decide
  simp [numLog10, e]

/-- Below one and above zero, which piece answers. -/
theorem numLog10_below_one (h0 : 0 < forder x) (h1 : flt x fOne = true) :
    numLog10 x = if fge x fTwoPowM30 then risingOn Config.rawLog10 fTwoPowM30 fOne logKnee fZero x
      else risingOn Config.rawLog10 fZero fTwoPowM30 fMinusInf logKnee x := by
  obtain ⟨hn, -, hlt⟩ := flt_iff.1 h1
  have e : forder fOne = 0x3F800000 := by decide
  have hne : x ≠ fOne := fun he => by rw [he] at hlt; exact lt_irrefl _ hlt
  have hi : isInf x = false := by
    refine decide_eq_false ?_
    rw [fmag_eq_natAbs, infMag]
    omega
  have hgt : fgt x fOne = false := by
    rw [fgt, Bool.eq_false_iff]
    exact fun h => absurd (flt_iff.1 h).2.2 hlt.not_gt
  have hgt0 : fgt x fZero = true := flt_iff.2 ⟨by decide, hn, h0⟩
  simp [numLog10, hn, hne, hi, hgt, hgt0]

/-- The piece from 2^-30 to one. -/
theorem numLog10_middle (hx : fle fTwoPowM30 x = true) (h1 : flt x fOne = true) :
    numLog10 x = risingOn Config.rawLog10 fTwoPowM30 fOne logKnee fZero x := by
  have h0 : 0 < forder x := lt_of_lt_of_le (by decide) (fle_iff.1 hx).2.2
  rw [numLog10_below_one h0 h1, fge, if_pos hx]

/-- The piece below 2^-30. -/
theorem numLog10_low (h0 : 0 < forder x) (hn : isNaN x = false) (hx : fle fTwoPowM30 x ≠ true) :
    numLog10 x = risingOn Config.rawLog10 fZero fTwoPowM30 fMinusInf logKnee x := by
  have h1 : flt x fOne = true := by
    obtain ⟨-, -, hlt⟩ := flt_iff.1 (flt_of_not_fle (by decide) hn hx)
    exact flt_iff.2 ⟨hn, by decide, hlt.trans (by decide)⟩
  rw [numLog10_below_one h0 h1, fge, if_neg hx]

/-- The arguments from one on: one itself, those above it that are finite, and plus infinity. -/
theorem one_le_cases (h : fle fOne x = true) :
    x = fOne ∨ (flt fOne x = true ∧ isFinite x = true) ∨ x = fInf := by
  obtain ⟨-, hn, hle⟩ := fle_iff.1 h
  rcases hle.lt_or_eq with hlt | heq
  · rcases ((forder_bounds hn).2).lt_or_eq with hfin | hinf
    · have hone : forder fOne = 0x3F800000 := by decide
      refine .inr (.inl ⟨flt_iff.2 ⟨by decide, hn, hlt⟩, decide_eq_true ?_⟩)
      rw [fmag_eq_natAbs]
      omega
    · exact .inr (.inr (eq_of_forder_eq hinf (by decide)))
  · exact .inl (eq_of_forder_eq heq.symm (by decide))

/-- The upper piece ends at or below its value at plus infinity. -/
theorem numLog10_le_inf (h : flt fOne x = true) (hf : isFinite x = true) :
    fle (numLog10 x) (numLog10 fInf) = true := by
  have hn := isNaN_of_isFinite hf
  have hlast : fle x fMaxFinite = true := fle_maxFinite hf
  have hx0 : 0 ≤ forder x := le_of_lt (lt_trans (by decide) (flt_iff.1 h).2.2)
  rw [numLog10_above_one h hf, numLog10_inf]
  have hrise := risingOn_mono Config.rawLog10 fOne fMaxFinite (lo := fZero) (hi := fMaxFinite) (by decide)
    (fmag_le_of_fle hx0 hlast)
  exact fle_trans hrise (clampf_inRange (fle_inf (fle_iff.1 hrise).2.1)).1

/-- From one on the logarithm is not negative. -/
theorem zero_le_numLog10 (h : fle fOne x = true) : fle fZero (numLog10 x) = true := by
  rcases one_le_cases h with rfl | ⟨hlt, hf⟩ | rfl
  · rw [numLog10_one]
    decide
  · rw [numLog10_above_one hlt hf]
    exact (risingOn_inRange _ _ _ _ (by decide)).1
  · have hmax : flt fOne fMaxFinite = true ∧ isFinite fMaxFinite = true := by decide
    refine fle_trans ?_ (numLog10_le_inf hmax.1 hmax.2)
    rw [numLog10_above_one hmax.1 hmax.2]
    exact (risingOn_inRange _ _ _ _ (by decide)).1

/-- From 2^-30 on the logarithm is at or above the knee. -/
theorem logKnee_le_numLog10 (h : fle fTwoPowM30 x = true) : fle logKnee (numLog10 x) = true := by
  by_cases h1 : fle fOne x = true
  · exact fle_trans logKnee_inRange.2 (zero_le_numLog10 h1)
  · rw [numLog10_middle h (flt_of_not_fle (by decide) (fle_iff.1 h).2.1 h1)]
    exact (risingOn_inRange _ _ _ _ logKnee_inRange.2).1

/-- NUM-log10-mono, finiteness at finite arguments from 2^-30 on. -/
theorem isFinite_numLog10 (h : fle fTwoPowM30 x = true) (hf : isFinite x = true) : isFinite (numLog10 x) = true := by
  have hlo := fle_trans logKnee_inRange.1 (logKnee_le_numLog10 h)
  refine isFinite_of_inRange ⟨hlo, ?_⟩
  by_cases h1 : fle fOne x = true
  · rcases one_le_cases h1 with rfl | ⟨hlt, -⟩ | rfl
    · rw [numLog10_one]
      decide
    · rw [numLog10_above_one hlt hf]
      exact (risingOn_inRange _ _ _ _ (by decide)).2
    · exact absurd hf (by decide)
  · rw [numLog10_middle h (flt_of_not_fle (by decide) (fle_iff.1 h).2.1 h1)]
    exact fle_trans (risingOn_inRange _ _ _ _ logKnee_inRange.2).2 (by decide)

/-- The logarithm rises from one on, through the finite arguments to plus infinity. -/
theorem numLog10_mono_above_one (hx : fle fOne x = true) (hxy : fle x y = true) :
    fle (numLog10 x) (numLog10 y) = true := by
  have hx0 : 0 ≤ forder x := le_trans (by decide) (fle_iff.1 hx).2.2
  rcases one_le_cases hx with rfl | ⟨hlt, hf⟩ | rfl
  · rw [numLog10_one]
    exact zero_le_numLog10 hxy
  · rcases one_le_cases (fle_trans hx hxy) with rfl | ⟨hlt', hf'⟩ | rfl
    · exact absurd (fle_iff.1 hxy).2.2 (flt_iff.1 hlt).2.2.not_ge
    · rw [numLog10_above_one hlt hf, numLog10_above_one hlt' hf']
      exact risingOn_mono _ _ _ (by decide) (fmag_le_of_fle hx0 hxy)
    · exact numLog10_le_inf hlt hf
  · obtain rfl := eq_inf_of_fle hxy
    exact fle_refl (fle_iff.1 (zero_le_numLog10 hx)).2.1

/-- NUM-log10-mono: inside each piece by the bracketing, across one by way of zero, across 2^-30 by way of the knee. -/
theorem numLog10_mono (hx : flt fZero x = true) (hxy : fle x y = true) :
    fle (numLog10 x) (numLog10 y) = true := by
  obtain ⟨hnx, hny, hle⟩ := fle_iff.1 hxy
  have hx0 : 0 < forder x := (flt_iff.1 hx).2.2
  have hmag := fmag_le_of_fle hx0.le hxy
  by_cases hx1 : fle fOne x = true
  · exact numLog10_mono_above_one hx1 hxy
  have hx1' := flt_of_not_fle (by decide) hnx hx1
  by_cases hx30 : fle fTwoPowM30 x = true
  · rw [numLog10_middle hx30 hx1']
    by_cases hy1 : fle fOne y = true
    · exact fle_trans (risingOn_inRange _ _ _ _ logKnee_inRange.2).2 (zero_le_numLog10 hy1)
    · rw [numLog10_middle (fle_trans hx30 hxy) (flt_of_not_fle (by decide) hny hy1)]
      exact risingOn_mono _ _ _ logKnee_inRange.2 hmag
  · rw [numLog10_low hx0 hnx hx30]
    by_cases hy30 : fle fTwoPowM30 y = true
    · exact fle_trans (risingOn_inRange _ _ _ _ minusInf_le_logKnee).2 (logKnee_le_numLog10 hy30)
    · rw [numLog10_low (hx0.trans_le hle) hny hy30]
      exact risingOn_mono _ _ _ minusInf_le_logKnee hmag

end

/-! ## NUM.pow10 -/

section

variable {x y : F32}

theorem numPow10_nan (h : isNaN x = true) : numPow10 x = asNaN (Config.rawPow10 x) := by simp [numPow10, h]

theorem numPow10_zero (h : isZero x = true) : numPow10 x = fOne := by simp [numPow10, isNaN_of_isZero h, h]

theorem numPow10_pos (h : 0 < forder x) (hx : fle x fTwo = true) :
    numPow10 x = risingOn Config.rawPow10 fZero fTwo fOne f100 x := by
  have hn := (fle_iff.1 hx).1
  have hge : fge x fZero = true := fle_iff.2 ⟨by decide, hn, h.le⟩
  simp [numPow10, hn, sign_of_forder_pos h, hge, hx]

/-- NUM-pow10-range. -/
theorem numPow10_inRange (h0 : 0 ≤ forder x) (hx : fle x fTwo = true) : inRange fOne f100 (numPow10 x) := by
  rcases h0.lt_or_eq with hpos | hzero
  · rw [numPow10_pos hpos hx]
    exact risingOn_inRange _ _ _ _ (by decide)
  · rw [numPow10_zero (isZero_iff.2 hzero.symm)]
    decide

/-- NUM-pow10-mono: by the bracketing, from a zero by way of one. -/
theorem numPow10_mono (h0 : 0 ≤ forder x) (hxy : fle x y = true) (hy : fle y fTwo = true) :
    fle (numPow10 x) (numPow10 y) = true := by
  have hle := (fle_iff.1 hxy).2.2
  rcases h0.lt_or_eq with hpos | hzero
  · rw [numPow10_pos hpos (fle_trans hxy hy), numPow10_pos (hpos.trans_le hle) hy]
    exact risingOn_mono _ _ _ (by decide) (fmag_le_of_fle h0 hxy)
  · rw [numPow10_zero (isZero_iff.2 hzero.symm)]
    exact (numPow10_inRange (h0.trans hle) hy).1

end

end Sys2Proof.Machine

namespace Sys2Proof.Proofs

open Sys2Proof.Machine Sys2Proof.Laws

/-- Settles O22, from the named properties of each function. -/
theorem transcendentalsHaveTheirNamedProperties : Obligations.TranscendentalsHaveTheirNamedProperties := by
  refine ⟨⟨numExp_zero isZero_fZero, numExp_zero (by decide), fun x hx => ?_, fun x y => numExp_mono⟩,
    fun cfg => ⟨numTan_zero, fun x hx hb => ⟨?_, (numTan_inRange hx hb).1, fun h16 => ?_, fun y => numTan_mono hx⟩⟩,
    ⟨numLog10_one, fun x => isFinite_numLog10, fun x y => numLog10_mono⟩,
    ⟨numPow10_zero isZero_fZero, fun x hx => numPow10_inRange (fle_iff.1 hx).2.2,
      fun x y hx => numPow10_mono (fle_iff.1 hx).2.2⟩,
    fun x hx => ⟨?_, fun cfg => ?_, ?_, ?_⟩⟩
  · obtain ⟨hn, -, hle⟩ := fle_iff.1 hx
    exact numExp_inRange hn hle
  · have h := numTan_inRange hx hb
    exact isFinite_of_inRange ⟨fle_trans (by decide) h.1, h.2⟩
  · exact fle_trans tanKnee_inRange.1 (tanKnee_le_numTan h16 hb).1
  · rw [numExp_nan hx]
    exact isNaN_asNaN _
  · rw [numTan_nan hx]
    exact isNaN_asNaN _
  · rw [numLog10_nan hx]
    exact isNaN_asNaN _
  · rw [numPow10_nan hx]
    exact isNaN_asNaN _

end Sys2Proof.Proofs
end

section
/-! SUPPORT. Correct rounding (spec/00_scope.md R23): the values of magnitude bits, the nearest multiple of a power of two,
and the one rounding function. -/

namespace Sys2Proof.Machine

/-! ## The values of magnitude bits -/

/-- In the binade whose step is `2^k`, magnitude bits `k·2^23 + m` have the value `m·2^k`; a carry to `2^24` included. -/
theorem unitsOfMag_scaled {k m : Nat} (hm : m ≤ 2 ^ 24) (hk : k = 0 ∨ 2 ^ 23 ≤ m) :
    unitsOfMag (k * 0x800000 + m) = m * 2 ^ k := by
  unfold unitsOfMag
  rcases lt_or_ge (k * 0x800000 + m) 0x800000 with hlt | hge
  · obtain rfl : k = 0 := by omega
    simp [show m < 0x800000 by omega]
  · rw [if_neg (by omega)]
    rcases eq_or_lt_of_le hm with rfl | hm'
    · rw [show (k * 0x800000 + 2 ^ 24) % 0x800000 = 0 by omega,
        show (k * 0x800000 + 2 ^ 24) / 0x800000 - 1 = k + 1 by omega, pow_succ]
      omega
    · rw [show (k * 0x800000 + m) % 0x800000 = m - 0x800000 by omega,
        show (k * 0x800000 + m) / 0x800000 - 1 = k by omega, show 0x800000 + (m - 0x800000) = m by omega]

/-- Every magnitude is `m·2^k` with `m` below `2^24`, and from `2^23` on above the lowest binade. -/
theorem exists_scaled (c : Nat) : ∃ k m, c = k * 0x800000 + m ∧ m < 2 ^ 24 ∧ (k = 0 ∨ 2 ^ 23 ≤ m) := by
  refine ⟨c / 0x800000 - 1, c - (c / 0x800000 - 1) * 0x800000, ?_, ?_, ?_⟩ <;> omega

/-- A value at or above `2^(k+23)` is a multiple of `2^k`; in the lowest binade every value is. -/
theorem unitsOfMag_dvd_or_lt (c k : Nat) : 2 ^ k ∣ unitsOfMag c ∨ (k ≠ 0 ∧ unitsOfMag c < 2 ^ 23 * 2 ^ k) := by
  obtain ⟨j, m, rfl, hm, hj⟩ := exists_scaled c
  rw [unitsOfMag_scaled hm.le hj]
  rcases le_or_gt k j with hkj | hjk
  · exact .inl ((pow_dvd_pow 2 hkj).mul_left m)
  · refine .inr ⟨by omega, ?_⟩
    calc m * 2 ^ j < 2 ^ 24 * 2 ^ j := Nat.mul_lt_mul_of_pos_right hm (Nat.two_pow_pos j)
      _ = 2 ^ 23 * 2 ^ (j + 1) := by rw [pow_succ]; omega
      _ ≤ 2 ^ 23 * 2 ^ k := Nat.mul_le_mul_left _ (Nat.pow_le_pow_right (by decide) hjk)

/-! ## The nearest multiple -/

/-- `divNearestEven` is the quotient or the next number, by which half the remainder lies in. -/
theorem divNearestEven_spec (n : Nat) {D : Nat} (hD : 0 < D) :
    2 * (((divNearestEven n D : Nat) : Int) * D - n).natAbs ≤ D
      ∧ (2 * (((divNearestEven n D : Nat) : Int) * D - n).natAbs = D → divNearestEven n D % 2 = 0) := by
  have hn : (n : Int) = (n / D : Nat) * D + (n % D : Nat) := by
    exact_mod_cast (Nat.div_add_mod' n D).symm
  have hr : n % D < D := Nat.mod_lt _ hD
  simp only [divNearestEven]
  generalize n / D = q at *
  generalize n % D = r at *
  have hq : ((q + 1 : Nat) : Int) * D - n = D - r := by rw [hn]; push_cast; ring
  have hq' : ((q : Nat) : Int) * D - n = -r := by rw [hn]; ring
  split
  · rw [hq]
    omega
  · rw [hq']
    omega

/-- No multiple is nearer, and at a tie the multiple taken is even. -/
theorem divNearestEven_nearest (n : Nat) {D : Nat} (hD : 0 < D) (j : Nat) :
    (((divNearestEven n D : Nat) : Int) * D - n).natAbs ≤ ((j : Int) * D - n).natAbs
      ∧ ((((divNearestEven n D : Nat) : Int) * D - n).natAbs = ((j : Int) * D - n).natAbs → j ≠ divNearestEven n D →
        divNearestEven n D % 2 = 0) := by
  obtain ⟨hhalf, htie⟩ := divNearestEven_spec n hD
  rcases eq_or_ne j (divNearestEven n D) with rfl | hne
  · exact ⟨le_rfl, fun _ h => absurd rfl h⟩
  generalize divNearestEven n D = m at *
  have hgap : D ≤ (((j : Int) - m) * D).natAbs := by
    rw [Int.natAbs_mul, Int.natAbs_natCast]
    exact Nat.le_mul_of_pos_left D (by omega)
  have hsub : ((j : Int) - m) * D = ((j : Int) * D - n) - ((m : Int) * D - n) := by ring
  rw [hsub] at hgap
  exact ⟨by omega, fun he _ => htie (by omega)⟩

/-- The nearest multiple is at most any multiple from the number on, and at least any multiple up to it. -/
theorem divNearestEven_le {n D j : Nat} (hD : 0 < D) (h : n ≤ j * D) : divNearestEven n D ≤ j := by
  have hspec := (divNearestEven_spec n hD).1
  by_contra hlt
  have hmul : (j + 1) * D ≤ divNearestEven n D * D := Nat.mul_le_mul_right D (by omega)
  rw [Nat.succ_mul] at hmul
  rw [← Nat.cast_mul] at hspec
  omega

theorem le_divNearestEven {n D j : Nat} (hD : 0 < D) (h : j * D ≤ n) : j ≤ divNearestEven n D := by
  have hspec := (divNearestEven_spec n hD).1
  by_contra hlt
  have hmul : (divNearestEven n D + 1) * D ≤ j * D := Nat.mul_le_mul_right D (by omega)
  rw [Nat.succ_mul] at hmul
  rw [← Nat.cast_mul] at hspec
  omega

/-! ## The binade -/

/-- How far the leading bit of `n / d` stands above bit 23. -/
def binade (n d : Nat) : Nat := Nat.log2 (n / d) - 23

/-- `n / d` lies below `2^24` steps of its binade and, above the lowest binade, from `2^23` steps on. -/
theorem binade_bounds (n : Nat) {d : Nat} (hd : 0 < d) :
    n < 2 ^ 24 * (d * 2 ^ binade n d) ∧ (binade n d = 0 ∨ 2 ^ 23 * (d * 2 ^ binade n d) ≤ n) := by
  have hlt : n / d < 2 ^ (24 + binade n d) :=
    Nat.lt_log2_self.trans_le (Nat.pow_le_pow_right (by decide) (by unfold binade; omega))
  have hge : binade n d ≠ 0 → 2 ^ (23 + binade n d) ≤ n / d := fun h => by
    have hne : n / d ≠ 0 := fun h0 => h (by simp [binade, h0])
    have h23 : 23 + binade n d = Nat.log2 (n / d) := by unfold binade at h ⊢; omega
    rw [h23]
    exact Nat.log2_self_le hne
  rw [Nat.div_lt_iff_lt_mul hd, pow_add] at hlt
  refine ⟨by rwa [mul_assoc, mul_comm _ d] at hlt, or_iff_not_imp_left.2 fun h => ?_⟩
  have hge' := hge h
  rwa [Nat.le_div_iff_mul_le hd, pow_add, mul_assoc, mul_comm _ d] at hge'

/-- The magnitude bits before the overflow to infinity. -/
def roundIndex (n d : Nat) : Nat := binade n d * 0x800000 + divNearestEven n (d * 2 ^ binade n d)

theorem roundMag_eq (n d : Nat) : roundMag n d = min (roundIndex n d) infMag := rfl

theorem step_pos {d : Nat} (hd : 0 < d) (k : Nat) : 0 < d * 2 ^ k := Nat.mul_pos hd (Nat.two_pow_pos k)

/-- The rounded significand stays in the binade, the carry to `2^24` included. -/
theorem significand_bounds (n : Nat) {d : Nat} (hd : 0 < d) :
    divNearestEven n (d * 2 ^ binade n d) ≤ 2 ^ 24
      ∧ (binade n d = 0 ∨ 2 ^ 23 ≤ divNearestEven n (d * 2 ^ binade n d)) :=
  have ⟨hlt, hge⟩ := binade_bounds n hd
  ⟨divNearestEven_le (step_pos hd _) hlt.le, hge.imp_right (le_divNearestEven (step_pos hd _))⟩

theorem unitsOfMag_roundIndex (n : Nat) {d : Nat} (hd : 0 < d) :
    unitsOfMag (roundIndex n d) = divNearestEven n (d * 2 ^ binade n d) * 2 ^ binade n d :=
  have ⟨hle, hge⟩ := significand_bounds n hd
  unitsOfMag_scaled hle hge

/-- No magnitude is nearer to `n / d`, and at a tie the bits taken are even. A magnitude off the step of the binade is
below the binade, so farther than the binade's first value. -/
theorem roundIndex_nearest (n c : Nat) {d : Nat} (hd : 0 < d) :
    ((unitsOfMag (roundIndex n d) : Int) * d - n).natAbs ≤ ((unitsOfMag c : Int) * d - n).natAbs
      ∧ (((unitsOfMag (roundIndex n d) : Int) * d - n).natAbs = ((unitsOfMag c : Int) * d - n).natAbs →
        unitsOfMag c ≠ unitsOfMag (roundIndex n d) → roundIndex n d % 2 = 0) := by
  have hbin := (binade_bounds n hd).2
  have hnear := divNearestEven_nearest n (step_pos hd (binade n d))
  have hdvd := unitsOfMag_dvd_or_lt c (binade n d)
  rw [unitsOfMag_roundIndex n hd, roundIndex]
  generalize binade n d = k at *
  generalize divNearestEven n (d * 2 ^ k) = m at *
  have hscale : ∀ j : Nat, ((j * 2 ^ k : Nat) : Int) * d = (j : Int) * (d * 2 ^ k : Nat) := fun j => by push_cast; ring
  rw [hscale m]
  rcases hdvd with ⟨j, hj⟩ | ⟨hk, hlt⟩
  · have hj' : unitsOfMag c = j * 2 ^ k := hj.trans (mul_comm _ _)
    rw [hj', hscale j]
    refine ⟨(hnear j).1, fun htie hne => ?_⟩
    have heven := (hnear j).2 htie fun hjm => hne (by rw [hjm])
    omega
  · have hfirst : 2 ^ 23 * (d * 2 ^ k) ≤ n := hbin.resolve_left hk
    have hfar : unitsOfMag c * d < 2 ^ 23 * (d * 2 ^ k) := by
      calc unitsOfMag c * d < 2 ^ 23 * 2 ^ k * d := Nat.mul_lt_mul_of_pos_right hlt hd
        _ = 2 ^ 23 * (d * 2 ^ k) := by ring
    have hmin := (hnear (2 ^ 23)).1
    have hcast : ((unitsOfMag c : Int) * d - n).natAbs = n - unitsOfMag c * d := by
      rw [← Nat.cast_mul]
      omega
    have hcast' : (((2 ^ 23 : Nat) : Int) * (d * 2 ^ k : Nat) - n).natAbs = n - 2 ^ 23 * (d * 2 ^ k) := by
      rw [← Nat.cast_mul]
      omega
    rw [hcast'] at hmin
    rw [hcast]
    omega

/-- The magnitude bits stay below infinity exactly below half a step past the largest finite value. -/
theorem roundIndex_lt_iff (n : Nat) {d : Nat} (hd : 0 < d) : roundIndex n d < infMag ↔ n < overflowUnits * d := by
  obtain ⟨hlt, hge⟩ := binade_bounds n hd
  obtain ⟨hsle, hsge⟩ := significand_bounds n hd
  have hspec := divNearestEven_spec n (step_pos hd (binade n d))
  unfold roundIndex infMag overflowUnits
  generalize hk : binade n d = k at *
  generalize divNearestEven n (d * 2 ^ k) = m at *
  rcases lt_trichotomy k 253 with hk' | rfl | hk'
  · have hstep : d * 2 ^ k ≤ d * 2 ^ 252 := Nat.mul_le_mul_left d (Nat.pow_le_pow_right (by decide) (by omega))
    exact iff_of_true (by omega) (by omega)
  · have htop : d * 2 ^ 253 = 2 * (d * 2 ^ 252) := by ring
    rw [← Nat.cast_mul] at hspec
    rcases lt_trichotomy m (2 ^ 24 - 1) with hm | rfl | hm
    · have hmul : m * (d * 2 ^ 253) ≤ (2 ^ 24 - 2) * (d * 2 ^ 253) := Nat.mul_le_mul_right _ (by omega)
      exact iff_of_true (by omega) (by omega)
    · exact iff_of_true (by omega) (by omega)
    · obtain rfl : m = 2 ^ 24 := by omega
      exact iff_of_false (by omega) (by omega)
  · have hstep : d * 2 ^ 254 ≤ d * 2 ^ k := Nat.mul_le_mul_left d (Nat.pow_le_pow_right (by decide) (by omega))
    exact iff_of_false (by omega) (by omega)

/-! ## The rounding function -/

theorem roundMag_le_infMag (n d : Nat) : roundMag n d ≤ infMag := Nat.min_le_right _ _

theorem roundMag_lt (n d : Nat) : roundMag n d < 0x80000000 := (roundMag_le_infMag n d).trans_lt (by decide)

theorem roundMag_of_lt {n d : Nat} (hd : 0 < d) (h : n < overflowUnits * d) :
    roundMag n d = roundIndex n d ∧ roundMag n d < infMag := by
  have hlt := (roundIndex_lt_iff n hd).2 h
  rw [roundMag_eq, Nat.min_eq_left hlt.le]
  exact ⟨rfl, hlt⟩

theorem roundMag_of_overflow {n d : Nat} (hd : 0 < d) (h : overflowUnits * d ≤ n) : roundMag n d = infMag :=
  Nat.min_eq_right (not_lt.1 fun hlt => absurd ((roundIndex_lt_iff n hd).1 hlt) h.not_gt)

@[simp] theorem fsign_pack_roundMag (neg : Bool) (n d : Nat) : fsign (pack neg (roundMag n d)) = neg :=
  fsign_pack_of_lt (roundMag_lt n d)

@[simp] theorem fmag_pack_roundMag (neg : Bool) (n d : Nat) : fmag (pack neg (roundMag n d)) = roundMag n d :=
  fmag_pack_of_lt (roundMag_lt n d)

theorem fvalue_of_sign {a : F32} (h : fsign a = true) : fvalue a = -funits a := if_pos h

theorem fvalue_of_noSign {a : F32} (h : fsign a = false) : fvalue a = funits a := by simp [fvalue, h]

/-- Giving both numbers a sign keeps their distance. -/
theorem natAbs_neg_mul_sub (u n : Int) (d : Nat) : (-u * d - -n).natAbs = (u * d - n).natAbs := by
  rw [show -u * d - -n = -(u * d - n) by ring, Int.natAbs_neg]

/-! ## Negation -/

theorem fsign_eq_msb (a : F32) : fsign a = a.msb := by simp [fsign, BitVec.msb_eq_decide]

theorem fmag_eq_setWidth (a : F32) : fmag a = (a.setWidth 31).toNat := by simp [fmag, BitVec.toNat_setWidth]

@[simp] theorem fsign_fneg (a : F32) : fsign (fneg a) = !fsign a := by
  rw [fsign_eq_msb, fsign_eq_msb, fneg, BitVec.msb_xor, show (0x80000000#32).msb = true by decide, Bool.xor_true]

@[simp] theorem fmag_fneg (a : F32) : fmag (fneg a) = fmag a := by
  rw [fmag_eq_setWidth, fmag_eq_setWidth, fneg, BitVec.setWidth_xor,
    show (0x80000000#32).setWidth 31 = 0#31 by decide, BitVec.xor_zero]

@[simp] theorem isNaN_fneg (a : F32) : isNaN (fneg a) = isNaN a := by simp [isNaN]

@[simp] theorem isInf_fneg (a : F32) : isInf (fneg a) = isInf a := by simp [isInf]

@[simp] theorem isZero_fneg (a : F32) : isZero (fneg a) = isZero a := by simp [isZero]

@[simp] theorem isFinite_fneg (a : F32) : isFinite (fneg a) = isFinite a := by simp [isFinite]

@[simp] theorem funits_fneg (a : F32) : funits (fneg a) = funits a := by simp [funits]

@[simp] theorem fvalue_fneg (a : F32) : fvalue (fneg a) = -fvalue a := by
  cases h : fsign a <;> simp [fvalue, h]

/-! ## The nearest value, with signs -/

/-- Among all values, of either sign, none is nearer to `n / d` than the rounded magnitude: a negative value is no nearer
than zero is. -/
theorem roundIndex_nearest_value (n : Nat) {d : Nat} (hd : 0 < d) (c : F32) :
    ((unitsOfMag (roundIndex n d) : Int) * d - n).natAbs ≤ (fvalue c * d - n).natAbs
      ∧ (((unitsOfMag (roundIndex n d) : Int) * d - n).natAbs = (fvalue c * d - n).natAbs →
        fvalue c ≠ unitsOfMag (roundIndex n d) → roundIndex n d % 2 = 0) := by
  cases hs : fsign c with
  | false =>
    obtain ⟨hle, htie⟩ := roundIndex_nearest n (fmag c) hd
    rw [fvalue_of_noSign hs]
    exact ⟨hle, fun he hne => htie he fun h => hne (congrArg _ h)⟩
  | true =>
    obtain ⟨hle, htie⟩ := roundIndex_nearest n 0 hd
    have hzero : (((unitsOfMag 0 : Nat) : Int) * d - n).natAbs = n := by simp [unitsOfMag]
    have hc : (fvalue c * d - n).natAbs = funits c * d + n := by
      rw [fvalue_of_sign hs, neg_mul, ← Nat.cast_mul]
      omega
    rw [hzero] at hle htie
    rw [hc]
    refine ⟨by omega, fun he hne => htie (by omega) fun h => hne ?_⟩
    have hu : funits c = 0 := (Nat.mul_eq_zero.1 (by omega : funits c * d = 0)).resolve_right hd.ne'
    rw [fvalue_of_sign hs, hu, ← h]
    rfl

theorem fvalue_pack_roundIndex {n d : Nat} (hd : 0 < d) (h : n < overflowUnits * d) (neg : Bool) :
    fvalue (pack neg (roundMag n d)) = if neg then -(unitsOfMag (roundIndex n d) : Int)
      else unitsOfMag (roundIndex n d) := by
  rw [fvalue, fsign_pack_roundMag, funits, fmag_pack_roundMag, (roundMag_of_lt hd h).1]

/-- Packing the rounded magnitude with a sign gives the nearest value, ties to even, and infinity on overflow (R23). -/
theorem isNearest_pack_roundMag (neg : Bool) (n : Nat) {d : Nat} (hd : 0 < d) :
    IsNearest (pack neg (roundMag n d)) (if neg then -(n : Int) else n) d := by
  have habs : (if neg then -(n : Int) else n).natAbs = n := by split <;> omega
  unfold IsNearest
  rw [habs]
  split
  · rename_i hlt
    obtain ⟨hidx, hfin⟩ := roundMag_of_lt hd hlt
    refine ⟨decide_eq_true (by rwa [fmag_pack_roundMag]), fun c _ => ?_⟩
    rw [fvalue_pack_roundIndex hd hlt, fmag_pack_roundMag, hidx]
    cases neg with
    | false => exact roundIndex_nearest_value n hd c
    | true =>
      obtain ⟨hle, htie⟩ := roundIndex_nearest_value n hd (fneg c)
      rw [fvalue_fneg] at hle htie
      have hc : (fvalue c * d - -n).natAbs = (-fvalue c * d - n).natAbs := by
        rw [← natAbs_neg_mul_sub, neg_neg]
      simp only [if_true]
      rw [natAbs_neg_mul_sub, hc]
      exact ⟨hle, fun he hne => htie he fun h => hne (by rw [← h, neg_neg])⟩
  · rename_i hge
    refine ⟨decide_eq_true (by rw [fmag_pack_roundMag, roundMag_of_overflow hd (not_lt.1 hge)]), ?_⟩
    have hpos : 0 < n := lt_of_lt_of_le (Nat.mul_pos (by decide) hd) (not_lt.1 hge)
    rw [fsign_pack_roundMag]
    cases neg with
    | false => exact (decide_eq_false (by simp)).symm
    | true => exact (decide_eq_true (by simp; omega)).symm

end Sys2Proof.Machine
end

section
/-! SUPPORT. The basic operations by the kinds of their operands (spec/00_scope.md R23, R25): finite, zero, infinite, NaN. -/

namespace Sys2Proof.Machine

/-! ## Kinds of patterns -/

theorem isFinite_kind {a : F32} (h : isFinite a = true) : isNaN a = false ∧ isInf a = false := by
  have hm : fmag a < infMag := of_decide_eq_true h
  exact ⟨decide_eq_false (by omega), decide_eq_false (by omega)⟩

theorem isInf_kind {a : F32} (h : isInf a = true) : isNaN a = false ∧ isZero a = false := by
  have hm : fmag a = infMag := of_decide_eq_true h
  exact ⟨decide_eq_false (by omega), decide_eq_false (by rw [hm]; decide)⟩

theorem isZero_kind {a : F32} (h : isZero a = true) : isNaN a = false ∧ isInf a = false := by
  have hm : fmag a = 0 := of_decide_eq_true h
  exact ⟨decide_eq_false (by omega), decide_eq_false (by rw [hm]; decide)⟩

theorem unitsOfMag_pos {m : Nat} (h : m ≠ 0) : 0 < unitsOfMag m := by
  unfold unitsOfMag
  split
  · omega
  · exact Nat.mul_pos (by omega) (Nat.two_pow_pos _)

theorem funits_pos {a : F32} (h : isZero a = false) : 0 < funits a := unitsOfMag_pos (of_decide_eq_false h)

/-- The pattern of an infinity by its sign. -/
theorem pack_infMag (neg : Bool) : pack neg infMag = if neg = true then 0xFF800000#32 else 0x7F800000#32 := by
  cases neg <;> rfl

/-- The pattern of a zero by its sign. -/
theorem pack_zero (neg : Bool) : pack neg 0 = if neg = true then 0x80000000#32 else 0x00000000#32 := by
  cases neg <;> rfl

/-- A generated NaN is quiet (R25). -/
theorem quiet_nanOf (op : FloatOp) (a b : F32) : 0x7FC00000 ≤ (nanOf op a b).toNat % 2 ^ 31 := by
  have h := fmag_quietNaN (Config.nanChoice op a b)
  unfold fmag at h
  unfold nanOf
  omega

variable {a b : F32}

/-! ## Addition and subtraction -/

theorem fadd_finite (ha : isFinite a = true) (hb : isFinite b = true) :
    fadd a b = if fvalue a + fvalue b = 0 then pack (fsign a && fsign b) 0
      else pack (decide (fvalue a + fvalue b < 0)) (roundMag (fvalue a + fvalue b).natAbs 1) := by
  simp [fadd, isFinite_kind ha, isFinite_kind hb]

/-- The sum of finite operands is the nearest value. -/
theorem fadd_isNearest (ha : isFinite a = true) (hb : isFinite b = true) :
    IsNearest (fadd a b) (fvalue a + fvalue b) 1 := by
  rw [fadd_finite ha hb]
  generalize fvalue a + fvalue b = v
  split
  · rename_i hv
    have h := isNearest_pack_roundMag (fsign a && fsign b) 0 Nat.one_pos
    rwa [show (if (fsign a && fsign b) = true then -((0 : Nat) : Int) else (0 : Nat)) = v by simp [hv],
      show roundMag 0 1 = 0 by decide] at h
  · have h := isNearest_pack_roundMag (decide (v < 0)) v.natAbs Nat.one_pos
    rwa [show (if decide (v < 0) = true then -(v.natAbs : Int) else v.natAbs) = v by
      simp only [decide_eq_true_eq]; split <;> omega] at h

/-- An exact zero sum is +0.0 unless both terms are negative. -/
theorem fadd_exact_zero (ha : isFinite a = true) (hb : isFinite b = true) (h : fvalue a + fvalue b = 0) :
    fadd a b = if fsign a && fsign b then 0x80000000#32 else 0x00000000#32 := by
  rw [fadd_finite ha hb, if_pos h, pack_zero]

/-- An infinity plus anything but a NaN or the other infinity is that infinity. -/
theorem fadd_inf_left (ha : isInf a = true) (hb : isNaN b = false) (h : (isInf b && (fsign a != fsign b)) = false) :
    fadd a b = a := by
  simp only [fadd, (isInf_kind ha).1, hb, ha, h, Bool.or_self, Bool.false_eq_true, if_false, if_true]

theorem fadd_inf_right (ha : isFinite a = true) (hb : isInf b = true) : fadd a b = b := by
  simp [fadd, isFinite_kind ha, isInf_kind hb, hb]

theorem fadd_inf_opposite (ha : isInf a = true) (hb : isInf b = true) (h : (fsign a != fsign b) = true) :
    fadd a b = nanOf .add a b := by
  simp [fadd, isInf_kind ha, isInf_kind hb, ha, hb, h]

theorem fadd_nan (h : isNaN a = true ∨ isNaN b = true) : fadd a b = nanOf .add a b := by
  rcases h with h | h <;> simp [fadd, h]

/-- Where no NaN and no pair of equal infinities stands, a difference is the sum with the negated operand. -/
theorem fsub_eq_fadd (ha : isNaN a = false) (hb : isNaN b = false)
    (h : (isInf a && isInf b && (fsign a == fsign b)) = false) : fsub a b = fadd a (fneg b) := by
  simp only [fsub, ha, hb, h, Bool.or_self, Bool.false_eq_true, if_false]

theorem fsub_finite (ha : isFinite a = true) (hb : isFinite b = true) : fsub a b = fadd a (fneg b) :=
  fsub_eq_fadd (isFinite_kind ha).1 (isFinite_kind hb).1 (by simp [isFinite_kind ha])

/-- The difference of finite operands is the nearest value. -/
theorem fsub_isNearest (ha : isFinite a = true) (hb : isFinite b = true) :
    IsNearest (fsub a b) (fvalue a - fvalue b) 1 := by
  have h := fadd_isNearest ha (b := fneg b) (by rwa [isFinite_fneg])
  rwa [fvalue_fneg, ← sub_eq_add_neg, ← fsub_finite ha hb] at h

theorem fsub_exact_zero (ha : isFinite a = true) (hb : isFinite b = true) (h : fvalue a = fvalue b) :
    fsub a b = if fsign a && !fsign b then 0x80000000#32 else 0x00000000#32 := by
  rw [fsub_finite ha hb, fadd_exact_zero ha (by rwa [isFinite_fneg]) (by rw [fvalue_fneg, h, add_neg_cancel]),
    fsign_fneg]

theorem fsub_inf_left (ha : isInf a = true) (hb : isFinite b = true) : fsub a b = a := by
  rw [fsub_eq_fadd (isInf_kind ha).1 (isFinite_kind hb).1 (by simp [isFinite_kind hb])]
  exact fadd_inf_left ha (by rw [isNaN_fneg, (isFinite_kind hb).1]) (by simp [isFinite_kind hb])

theorem fsub_inf_right (ha : isFinite a = true) (hb : isInf b = true) : fsub a b = fneg b := by
  rw [fsub_eq_fadd (isFinite_kind ha).1 (isInf_kind hb).1 (by simp [isFinite_kind ha])]
  exact fadd_inf_right ha (by rwa [isInf_fneg])

theorem fsub_inf_opposite (ha : isInf a = true) (hb : isInf b = true) (h : (fsign a != fsign b) = true) :
    fsub a b = a := by
  have hs : fsign a = !fsign b := Bool.eq_not.2 (bne_iff_ne.1 h)
  rw [fsub_eq_fadd (isInf_kind ha).1 (isInf_kind hb).1 (by simp [hs])]
  exact fadd_inf_left ha (by rw [isNaN_fneg, (isInf_kind hb).1]) (by simp [hs])

theorem fsub_inf_same (ha : isInf a = true) (hb : isInf b = true) (h : (fsign a != fsign b) = false) :
    fsub a b = nanOf .sub a b := by
  have hs : (fsign a == fsign b) = true := by simpa using h
  simp [fsub, ha, hb, hs]

theorem fsub_nan (h : isNaN a = true ∨ isNaN b = true) : fsub a b = nanOf .sub a b := by
  rcases h with h | h <;> simp [fsub, h]

/-! ## Multiplication -/

theorem fmul_finite (ha : isFinite a = true) (hb : isFinite b = true) :
    fmul a b = pack (fsign a != fsign b) (roundMag (funits a * funits b) (2 ^ 149)) := by
  simp only [fmul, isFinite_kind ha, isFinite_kind hb, Bool.or_self, Bool.false_and, Bool.and_false,
    Bool.false_eq_true, if_false]

/-- The sign of a product of magnitudes is that of the operands' signs. -/
theorem fvalue_mul_fvalue (a b : F32) : fvalue a * fvalue b =
    if (fsign a != fsign b) = true then -((funits a * funits b : Nat) : Int) else (funits a * funits b : Nat) := by
  unfold fvalue
  cases fsign a <;> cases fsign b <;> simp

/-- The product of finite operands is the nearest value, with the sign of the operands' signs. -/
theorem fmul_isNearest (ha : isFinite a = true) (hb : isFinite b = true) :
    IsNearest (fmul a b) (fvalue a * fvalue b) (2 ^ 149) := by
  rw [fmul_finite ha hb, fvalue_mul_fvalue]
  exact isNearest_pack_roundMag _ _ (Nat.two_pow_pos 149)

theorem fsign_fmul_finite (ha : isFinite a = true) (hb : isFinite b = true) :
    fsign (fmul a b) = (fsign a != fsign b) := by
  rw [fmul_finite ha hb, fsign_pack_roundMag]

/-- A product with an infinity and no zero or NaN is an infinity. -/
theorem fmul_inf (h : isInf a = true ∨ isInf b = true) (ha : isNaN a = false ∧ isZero a = false)
    (hb : isNaN b = false ∧ isZero b = false) : fmul a b = pack (fsign a != fsign b) infMag := by
  rcases h with h | h <;> simp [fmul, h, ha, hb]

theorem fmul_inf_zero (h : (isInf a = true ∧ isZero b = true) ∨ (isZero a = true ∧ isInf b = true)) :
    fmul a b = nanOf .mul a b := by
  rcases h with h | h <;> simp [fmul, h]

theorem fmul_nan (h : isNaN a = true ∨ isNaN b = true) : fmul a b = nanOf .mul a b := by
  rcases h with h | h <;> simp [fmul, h]

/-! ## Division -/

theorem fdiv_finite (ha : isFinite a = true) (hb : isFinite b = true) (hz : isZero b = false) :
    fdiv a b = pack (fsign a != fsign b) (roundMag (funits a * 2 ^ 149) (funits b)) := by
  simp only [fdiv, isFinite_kind ha, isFinite_kind hb, hz, Bool.or_self, Bool.and_false,
    Bool.false_eq_true, if_false]

/-- The quotient of finite operands, the divisor not zero, is the nearest value. -/
theorem fdiv_isNearest (ha : isFinite a = true) (hb : isFinite b = true) (hz : isZero b = false) :
    IsNearest (fdiv a b) ((if fsign b then -fvalue a else fvalue a) * 2 ^ 149) (funits b) := by
  have h := isNearest_pack_roundMag (fsign a != fsign b) (funits a * 2 ^ 149) (funits_pos hz)
  rw [← fdiv_finite ha hb hz] at h
  convert h using 1
  unfold fvalue
  cases fsign a <;> cases fsign b <;> simp

theorem fsign_fdiv_finite (ha : isFinite a = true) (hb : isFinite b = true) (hz : isZero b = false) :
    fsign (fdiv a b) = (fsign a != fsign b) := by
  rw [fdiv_finite ha hb hz, fsign_pack_roundMag]

/-- An infinity over a finite number, or a number other than zero over zero, is an infinity. -/
theorem fdiv_inf_left (ha : isInf a = true) (hb : isFinite b = true) :
    fdiv a b = pack (fsign a != fsign b) infMag := by
  simp [fdiv, ha, isInf_kind ha, isFinite_kind hb]

theorem fdiv_by_zero (ha : isFinite a = true) (hz : isZero a = false) (hb : isZero b = true) :
    fdiv a b = pack (fsign a != fsign b) infMag := by
  simp [fdiv, isFinite_kind ha, hz, hb, isZero_kind hb]

/-- A finite number over an infinity is a zero. -/
theorem fdiv_inf_right (ha : isFinite a = true) (hb : isInf b = true) : fdiv a b = pack (fsign a != fsign b) 0 := by
  simp [fdiv, isFinite_kind ha, hb, isInf_kind hb]

theorem fdiv_inf_inf (ha : isInf a = true) (hb : isInf b = true) : fdiv a b = nanOf .div a b := by simp [fdiv, ha, hb]

theorem fdiv_zero_zero (ha : isZero a = true) (hb : isZero b = true) : fdiv a b = nanOf .div a b := by
  simp [fdiv, ha, hb]

theorem fdiv_nan (h : isNaN a = true ∨ isNaN b = true) : fdiv a b = nanOf .div a b := by
  rcases h with h | h <;> simp [fdiv, h]

end Sys2Proof.Machine

namespace Sys2Proof.Proofs

open Sys2Proof.Machine

/-- Settles O19, one law for each operation and kind of operands. -/
theorem basicOperationsAreCorrectlyRounded : Obligations.BasicOperationsAreCorrectlyRounded := by
  intro a b neg inf zero quiet
  refine ⟨fun ha hb => ?finite, fun ha hb => ?infinite, fun ha hb => ?infinities, fun ha hb => ?zeros, fun h => ?nan⟩
  case finite =>
    refine ⟨fadd_isNearest ha hb, fsub_isNearest ha hb, fmul_isNearest ha hb,
      fun hz => ⟨fdiv_isNearest ha hb hz, fsign_fdiv_finite ha hb hz⟩, fsign_fmul_finite ha hb, fadd_exact_zero ha hb,
      fsub_exact_zero ha hb, fun hb0 ha0 => ?_⟩
    rw [fdiv_by_zero ha ha0 hb0, pack_infMag]
  case infinite =>
    obtain ⟨hnb, hib⟩ := isFinite_kind hb
    have hcomm : (fsign b != fsign a) = neg := bne_comm
    refine ⟨fadd_inf_left ha hnb (by simp [hib]), fadd_inf_right hb ha, fsub_inf_left ha hb, fsub_inf_right hb ha, ?_, ?_,
      fun hz => ⟨?_, ?_⟩, fun hz => ⟨?_, ?_⟩⟩
    · rw [fdiv_inf_left ha hb, pack_infMag]
    · rw [fdiv_inf_right hb ha, pack_zero, hcomm]
    · rw [fmul_inf (.inl ha) (isInf_kind ha) ⟨hnb, hz⟩, pack_infMag]
    · rw [fmul_inf (.inr ha) ⟨hnb, hz⟩ (isInf_kind ha), pack_infMag, hcomm]
    · rw [fmul_inf_zero (.inl ⟨ha, hz⟩)]
      exact quiet_nanOf _ _ _
    · rw [fmul_inf_zero (.inr ⟨hz, ha⟩)]
      exact quiet_nanOf _ _ _
  case infinities =>
    refine ⟨?_, ?_, fun hneg => ⟨?_, fsub_inf_opposite ha hb hneg⟩, fun hneg => ⟨?_, ?_⟩⟩
    · rw [fmul_inf (.inl ha) (isInf_kind ha) (isInf_kind hb), pack_infMag]
    · rw [fdiv_inf_inf ha hb]
      exact quiet_nanOf _ _ _
    · rw [fadd_inf_opposite ha hb hneg]
      exact quiet_nanOf _ _ _
    · exact fadd_inf_left ha (isInf_kind hb).1 (by rw [show (fsign a != fsign b) = false from hneg, Bool.and_false])
    · rw [fsub_inf_same ha hb hneg]
      exact quiet_nanOf _ _ _
  case zeros =>
    rw [fdiv_zero_zero ha hb]
    exact quiet_nanOf _ _ _
  case nan =>
    rw [fadd_nan h, fsub_nan h, fmul_nan h, fdiv_nan h]
    exact ⟨quiet_nanOf _ _ _, quiet_nanOf _ _ _, quiet_nanOf _ _ _, quiet_nanOf _ _ _⟩

end Sys2Proof.Proofs
end

section
/-! SUPPORT. The square root (spec/00_scope.md R23): the integer root, the two multiples of the binade's step around the
root, and which of them is nearer, all by exact squares. -/

namespace Sys2Proof.Machine

/-! ## The integer root -/

/-- Bit by bit from the top: the root stays between the base and the bits still open. -/
theorem isqrtBits_eq_sqrt (n bits base : Nat) (hlo : base * base ≤ n)
    (hhi : n < (base + 2 ^ bits) * (base + 2 ^ bits)) : isqrtBits n bits base = Nat.sqrt n := by
  induction bits generalizing base with
  | zero => exact Nat.eq_sqrt.2 ⟨hlo, hhi⟩
  | succ bits ih =>
    have htop : base + 2 ^ (bits + 1) = base + 2 ^ bits + 2 ^ bits := by rw [pow_succ]; omega
    rw [htop] at hhi
    unfold isqrtBits
    split
    · exact ih _ ‹_› hhi
    · exact ih _ hlo (not_le.1 ‹_›)

theorem isqrt_eq_sqrt (n : Nat) : isqrt n = Nat.sqrt n := by
  refine isqrtBits_eq_sqrt n _ 0 (Nat.zero_le n) ?_
  rw [Nat.zero_add, ← pow_add]
  exact Nat.lt_log2_self.trans_le (Nat.pow_le_pow_right (by decide) (by omega))

/-! ## The two candidates -/

/-- How far the leading bit of the root of `n` stands above bit 23. -/
def rootBinade (n : Nat) : Nat := binade (Nat.sqrt n) 1

/-- The significand of the root, rounded down. -/
def rootFloor (n : Nat) : Nat := Nat.sqrt (n / 4 ^ rootBinade n)

theorem four_pow_eq (k : Nat) : 4 ^ k = 2 ^ k * 2 ^ k := Nat.mul_pow 2 2 k

/-- The floor in terms of the multiples of the step: which squares are at most `n`. -/
theorem le_rootFloor_iff (n j : Nat) :
    j ≤ rootFloor n ↔ j * 2 ^ rootBinade n * (j * 2 ^ rootBinade n) ≤ n := by
  rw [rootFloor, Nat.le_sqrt, Nat.le_div_iff_mul_le (by positivity), four_pow_eq, mul_mul_mul_comm]

/-- The root lies between the floor and the next multiple of the step. -/
theorem rootFloor_bounds (n : Nat) :
    rootFloor n * 2 ^ rootBinade n * (rootFloor n * 2 ^ rootBinade n) ≤ n
      ∧ n < (rootFloor n + 1) * 2 ^ rootBinade n * ((rootFloor n + 1) * 2 ^ rootBinade n) :=
  ⟨(le_rootFloor_iff n _).1 le_rfl, not_le.1 fun h => absurd ((le_rootFloor_iff n _).2 h) (Nat.not_succ_le_self _)⟩

/-- The floor has the 24 bits of a significand. -/
theorem rootFloor_significand (n : Nat) : rootFloor n < 2 ^ 24 ∧ (rootBinade n = 0 ∨ 2 ^ 23 ≤ rootFloor n) := by
  obtain ⟨hlt, hge⟩ := binade_bounds (Nat.sqrt n) Nat.one_pos
  rw [one_mul] at hlt hge
  refine ⟨not_le.1 fun h => ?_, hge.imp_right fun h => (le_rootFloor_iff n _).2 (Nat.le_sqrt.1 h)⟩
  exact absurd (Nat.le_sqrt.2 ((le_rootFloor_iff n _).1 h)) hlt.not_ge

/-! ## The nearer candidate -/

/-- Every magnitude is at most the lower multiple or at least the upper one. -/
theorem unitsOfMag_le_or_ge (c : Nat) {k j : Nat} (hj : k = 0 ∨ 2 ^ 23 ≤ j) :
    unitsOfMag c ≤ j * 2 ^ k ∨ (j + 1) * 2 ^ k ≤ unitsOfMag c := by
  rcases unitsOfMag_dvd_or_lt c k with ⟨i, hi⟩ | ⟨hk, hlt⟩
  · rw [hi, mul_comm]
    exact (Nat.lt_or_ge j i).symm.imp (Nat.mul_le_mul_right _) (Nat.mul_le_mul_right _)
  · exact .inl (hlt.le.trans (Nat.mul_le_mul_right _ (hj.resolve_left hk)))

/-- `r` is at least as near to the root of `n` as `u` is, and at a tie with another value `even` holds. -/
def RootNearer (n r u : Nat) (even : Prop) : Prop :=
  (u < r → (u + r) * (u + r) ≤ 4 * n) ∧ (r < u → 4 * n ≤ (u + r) * (u + r))
    ∧ (u ≠ r → (u + r) * (u + r) = 4 * n → even)

/-- Where the root is not above the middle of two neighbours, the lower one is nearest. -/
theorem rootNearer_lower {n lo hi u : Nat} {even : Prop} (hlo : lo * lo ≤ n) (hmid : 4 * n ≤ (lo + hi) * (lo + hi))
    (heven : (lo + hi) * (lo + hi) = 4 * n → even) (hu : u ≤ lo ∨ hi ≤ u) : RootNearer n lo u even := by
  have hbelow : u < lo → (u + lo) * (u + lo) < 4 * n := fun h =>
    (Nat.mul_self_lt_mul_self (show u + lo < lo + lo by omega)).trans_le (by linarith)
  have habove : lo < u → (lo + hi) * (lo + hi) ≤ (u + lo) * (u + lo) := fun h => Nat.mul_self_le_mul_self (by omega)
  refine ⟨fun h => (hbelow h).le, fun h => hmid.trans (habove h), fun hne he => ?_⟩
  rcases hne.lt_or_gt with h | h
  · exact absurd he (hbelow h).ne
  · exact heven (le_antisymm (he ▸ habove h) hmid)

/-- Where the root is not below the middle, the upper one is. -/
theorem rootNearer_upper {n lo hi u : Nat} {even : Prop} (hhi : n < hi * hi) (hmid : (lo + hi) * (lo + hi) ≤ 4 * n)
    (heven : (lo + hi) * (lo + hi) = 4 * n → even) (hu : u ≤ lo ∨ hi ≤ u) : RootNearer n hi u even := by
  have habove : hi < u → 4 * n < (u + hi) * (u + hi) := fun h =>
    lt_of_le_of_lt' (Nat.mul_self_le_mul_self (show hi + hi ≤ u + hi by omega)) (by linarith)
  have hbelow : u < hi → (u + hi) * (u + hi) ≤ (lo + hi) * (lo + hi) := fun h => Nat.mul_self_le_mul_self (by omega)
  refine ⟨fun h => (hbelow h).trans hmid, fun h => (habove h).le, fun hne he => ?_⟩
  rcases hne.lt_or_gt with h | h
  · exact heven (le_antisymm hmid (he ▸ hbelow h))
  · exact absurd he (habove h).ne'

/-! ## The rounded root -/

/-- The significand of the rounded root: the floor or the next number, by the square of the middle. -/
def rootSignificand (n : Nat) : Nat :=
  if (2 * rootFloor n + 1) * (2 * rootFloor n + 1) * 4 ^ rootBinade n < 4 * n
      ∨ ((2 * rootFloor n + 1) * (2 * rootFloor n + 1) * 4 ^ rootBinade n = 4 * n ∧ rootFloor n % 2 = 1)
  then rootFloor n + 1 else rootFloor n

theorem sqrtMag_eq (n : Nat) : sqrtMag n = rootBinade n * 0x800000 + rootSignificand n := by
  simp only [sqrtMag, isqrt_eq_sqrt, rootSignificand, rootFloor, rootBinade, binade, Nat.div_one]

theorem rootSignificand_cases (n : Nat) : rootSignificand n = rootFloor n ∨ rootSignificand n = rootFloor n + 1 := by
  unfold rootSignificand
  split
  · exact .inr rfl
  · exact .inl rfl

theorem unitsOfMag_sqrtMag (n : Nat) : unitsOfMag (sqrtMag n) = rootSignificand n * 2 ^ rootBinade n := by
  have hsig := rootFloor_significand n
  have hcases := rootSignificand_cases n
  rw [sqrtMag_eq]
  exact unitsOfMag_scaled (by omega) (by omega)

/-- No magnitude is nearer to the root of `n`, and at a tie the bits taken are even. -/
theorem sqrtMag_nearest (n c : Nat) :
    RootNearer n (unitsOfMag (sqrtMag n)) (unitsOfMag c) (sqrtMag n % 2 = 0) := by
  obtain ⟨hlo, hhi⟩ := rootFloor_bounds n
  have hu := unitsOfMag_le_or_ge c (rootFloor_significand n).2
  have hmid : (2 * rootFloor n + 1) * (2 * rootFloor n + 1) * 4 ^ rootBinade n =
      (rootFloor n * 2 ^ rootBinade n + (rootFloor n + 1) * 2 ^ rootBinade n)
        * (rootFloor n * 2 ^ rootBinade n + (rootFloor n + 1) * 2 ^ rootBinade n) := by
    rw [four_pow_eq]
    ring
  rw [unitsOfMag_sqrtMag, sqrtMag_eq, rootSignificand, hmid]
  split
  · exact rootNearer_upper hhi (by omega) (fun he => by omega) hu
  · exact rootNearer_lower hlo (by omega) (fun he => by omega) hu

/-- The root of a finite number of units, scaled to a square, is far from overflow. -/
theorem sqrtMag_lt {n : Nat} (h : n < 2 ^ 213 * 2 ^ 213) : sqrtMag n < infMag := by
  have hroot : Nat.sqrt n < 2 ^ 213 := Nat.sqrt_lt.2 h
  have hbin : rootBinade n ≤ 190 := by
    rcases Nat.eq_zero_or_pos (Nat.sqrt n) with h0 | hpos
    · simp [rootBinade, binade, h0]
    · have hlog := (Nat.log2_lt hpos.ne').2 hroot
      unfold rootBinade binade
      rw [Nat.div_one]
      omega
  have hsig := rootFloor_significand n
  have hcases := rootSignificand_cases n
  rw [sqrtMag_eq, infMag]
  omega

theorem funits_lt {a : F32} (h : isFinite a = true) : funits a < 2 ^ 277 := by
  have hm : fmag a < infMag := of_decide_eq_true h
  obtain ⟨k, m, he, hlt, hk⟩ := exists_scaled (fmag a)
  rw [infMag] at hm
  have hk' : k ≤ 253 := by omega
  rw [funits, he, unitsOfMag_scaled hlt.le hk]
  calc m * 2 ^ k ≤ m * 2 ^ 253 := Nat.mul_le_mul_left m (Nat.pow_le_pow_right (by decide) hk')
    _ < 2 ^ 277 := by omega

/-! ## `fsqrt` by the kinds of its operand -/

section

variable {a : F32}

theorem fsqrt_positive (ha : isFinite a = true) (hz : isZero a = false) (hs : fsign a = false) :
    fsqrt a = pack false (sqrtMag (funits a * 2 ^ 149)) := by
  simp [fsqrt, isFinite_kind ha, hz, hs]

theorem sqrtMag_finite (ha : isFinite a = true) : sqrtMag (funits a * 2 ^ 149) < infMag :=
  sqrtMag_lt <| by
    calc funits a * 2 ^ 149 < 2 ^ 277 * 2 ^ 149 := Nat.mul_lt_mul_of_pos_right (funits_lt ha) (Nat.two_pow_pos 149)
      _ = 2 ^ 213 * 2 ^ 213 := by rw [← pow_add, ← pow_add]

/-- The root of a positive number has no sign and the rounded magnitude. -/
theorem fsqrt_parts (ha : isFinite a = true) (hz : isZero a = false) (hs : fsign a = false) :
    fsign (fsqrt a) = false ∧ fmag (fsqrt a) = sqrtMag (funits a * 2 ^ 149) := by
  have hlt : sqrtMag (funits a * 2 ^ 149) < 0x80000000 := (sqrtMag_finite ha).trans (by decide)
  rw [fsqrt_positive ha hz hs]
  exact ⟨fsign_pack_of_lt hlt, fmag_pack_of_lt hlt⟩

theorem fsqrt_zero (hz : isZero a = true) : fsqrt a = a := by simp [fsqrt, isZero_kind hz, hz]

theorem fsqrt_inf : fsqrt fInf = fInf := by
  have e : isNaN fInf = false ∧ isZero fInf = false ∧ fsign fInf = false ∧ isInf fInf = true := by decide
  simp [fsqrt, e]

/-- A NaN, and a negative number other than zero, have no root. -/
theorem fsqrt_invalid (h : isNaN a = true ∨ (fsign a = true ∧ isZero a = false)) : fsqrt a = nanOf .sqrt a a := by
  rcases h with h | ⟨hs, hz⟩
  · simp [fsqrt, h]
  · simp [fsqrt, hs, hz]

end

end Sys2Proof.Machine

namespace Sys2Proof.Proofs

open Sys2Proof.Machine

/-- Settles O20: the rounded root by exact squares, and the operands that have none. -/
theorem squareRootIsCorrectlyRounded : Obligations.SquareRootIsCorrectlyRounded := by
  intro a
  refine ⟨fun ha hz hs => ?_, fsqrt_zero, fsqrt_inf, fun h => ?_⟩
  · obtain ⟨hsign, hmag⟩ := fsqrt_parts ha hz hs
    refine ⟨decide_eq_true (by rw [hmag]; exact sqrtMag_finite ha), hsign, fun c _ _ => ?_⟩
    have hnear := sqrtMag_nearest (funits a * 2 ^ 149) (fmag c)
    rw [← hmag] at hnear
    exact hnear
  · rw [fsqrt_invalid h]
    exact quiet_nanOf _ _ _

end Sys2Proof.Proofs
end

section
/-! SUPPORT. What a command does, said once: the state each command reaches before pc advances, and the inversion of one
command's run. The frame of a command (what it leaves unchanged) is a case analysis over this relation. -/

namespace Sys2Proof.Machine

variable {cfg : Params}

/-! ## Units of a bank -/

@[simp] theorem vector_set_self {α : Type} {n : Nat} (v : Vector α n) (i : Fin n) (a : α) : (v.set i a)[i] = a :=
  Vector.getElem_set_self _

theorem vector_set_of_ne {α : Type} {n : Nat} (v : Vector α n) {i j : Fin n} (a : α) (h : j ≠ i) :
    (v.set i a)[j] = v[j] := Vector.getElem_set_ne _ _ fun he => h (Fin.ext he.symm)

theorem vector_replicate_getElem {α : Type} {n : Nat} (a : α) (j : Fin n) : (Vector.replicate n a)[j] = a :=
  Vector.getElem_replicate _

theorem vector_ofFn_getElem {α : Type} {n : Nat} (f : Fin n → α) (j : Fin n) : (Vector.ofFn f)[j] = f j :=
  Vector.getElem_ofFn _

theorem vector_set_forall {α : Type} {n : Nat} {p : α → Prop} {v : Vector α n} {i : Fin n} {a : α}
    (h : ∀ j : Fin n, p v[j]) (ha : p a) (j : Fin n) : p (v.set i a)[j] := by
  by_cases hj : j = i
  · rw [hj, vector_set_self]
    exact ha
  · rw [vector_set_of_ne v a hj]
    exact h j

theorem vector_set_rel {α : Type} {n : Nat} (r : α → α → Prop) (hrefl : ∀ a, r a a) (v : Vector α n) {i : Fin n} {a : α}
    (h : r a v[i]) (j : Fin n) : r (v.set i a)[j] v[j] := by
  by_cases hj : j = i
  · rw [hj, vector_set_self]
    exact h
  · rw [vector_set_of_ne v a hj]
    exact hrefl _

/-- The cutoff and the coefficient, all but the history (spec/10_state.md R52, R55). -/
def OnePole.SameCoefficients (o' o : OnePole) : Prop := o'.fc = o.fc ∧ o'.a0 = o.a0

/-- The parameters and the coefficients, all but the two histories (R53 to R55). -/
def Biquad.SameCoefficients (b' b : Biquad) : Prop :=
  b'.ty = b.ty ∧ b'.fc = b.fc ∧ b'.q = b.q ∧ b'.gain = b.gain ∧ b'.coef = b.coef

/-- The configuration and the coefficient, all but the measurement (R56, R57). -/
def Meter.SameCoefficients (m' m : Meter cfg) : Prop :=
  m'.fcs = m.fcs ∧ m'.coef = m.coef ∧ m'.holdCfg = m.holdCfg ∧ m'.presel = m.presel

theorem onePole_set_z1 (op : Vector OnePole cfg.nop) (i : Fin cfg.nop) (z : F32) (u : Fin cfg.nop) :
    OnePole.SameCoefficients (op.set i { op[i] with z1 := z })[u] op[u] :=
  vector_set_rel OnePole.SameCoefficients (fun _ => ⟨rfl, rfl⟩) op (a := { op[i] with z1 := z }) ⟨rfl, rfl⟩ u

theorem biquad_set {bq : Vector Biquad cfg.nbq} {i : Fin cfg.nbq} {b : Biquad} (h : b.SameCoefficients bq[i])
    (u : Fin cfg.nbq) : Biquad.SameCoefficients (bq.set i b)[u] bq[u] :=
  vector_set_rel Biquad.SameCoefficients (fun _ => ⟨rfl, rfl, rfl, rfl, rfl⟩) bq h u

theorem meter_set {lm : Vector (Meter cfg) cfg.nlm} {i : Fin cfg.nlm} {m : Meter cfg} (h : m.SameCoefficients lm[i])
    (u : Fin cfg.nlm) : Meter.SameCoefficients (lm.set i m)[u] lm[u] :=
  vector_set_rel Meter.SameCoefficients (fun _ => ⟨rfl, rfl, rfl, rfl⟩) lm h u

/-! ## The commands of several stages -/

/-- A pre-filter advances the histories of one biquad unit at most (spec/44_levelmeter.md R222). -/
theorem prefilter_frame (s : State cfg) (pre : Option (Fin cfg.nbq)) (v : F32) :
    ∃ bq, (prefilter s pre v).1 = { s with bq := bq } ∧ ∀ u : Fin cfg.nbq, Biquad.SameCoefficients bq[u] s.bq[u] := by
  cases pre
  · exact ⟨s.bq, rfl, fun _ => ⟨rfl, rfl, rfl, rfl, rfl⟩⟩
  · exact ⟨_, rfl, biquad_set ⟨rfl, rfl, rfl, rfl, rfl⟩⟩

/-- What a stage of RV.PROC leaves as it was: everything but delay memory, the one-pole bank and the cross-feed
registers; of the bank the coefficients; and the lines stay in range and canonical. -/
structure ReverbFrame (s t : State cfg) : Prop where
  record : ∃ dl op yl yr, t = { s with dl := dl, op := op, rv := { s.rv with yl := yl, yr := yr } }
  coefficients : ∀ u : Fin cfg.nop, OnePole.SameCoefficients t.op[u] s.op[u]
  lines : s.LineInv → t.LineInv

theorem ReverbFrame.trans {s t u : State cfg} (hst : ReverbFrame s t) (htu : ReverbFrame t u) : ReverbFrame s u where
  record := by
    obtain ⟨_, _, _, _, rfl⟩ := hst.record
    obtain ⟨dl, op, yl, yr, rfl⟩ := htu.record
    exact ⟨dl, op, yl, yr, rfl⟩
  coefficients i := by
    obtain ⟨hfc, ha0⟩ := hst.coefficients i
    obtain ⟨hfc', ha0'⟩ := htu.coefficients i
    exact ⟨hfc'.trans hfc, ha0'.trans ha0⟩
  lines h := htu.lines (hst.lines h)

theorem reverbFrame_rotate (s : State cfg) (d : Fin cfg.ndl) : ReverbFrame s (rotate s d) :=
  ⟨⟨_, _, _, _, rfl⟩, fun _ => ⟨rfl, rfl⟩, lineInv_rotate s d⟩

theorem reverbFrame_setOpZ1 (s : State cfg) (u : Fin cfg.nop) (z : F32) : ReverbFrame s (setOpZ1 s u z) :=
  ⟨⟨_, _, _, _, rfl⟩, onePole_set_z1 s.op u z, id⟩

theorem reverbFrame_writeOffset (s : State cfg) (d : Fin cfg.ndl) (off : Nat) (v : Word) :
    ReverbFrame s (writeOffset s d off v) :=
  ⟨⟨_, _, _, _, rfl⟩, fun _ => ⟨rfl, rfl⟩, lineInv_writeOffset s d off v⟩

theorem reverbFrame_crossFeed (s : State cfg) (yl yr : F32) :
    ReverbFrame s { s with rv := { s.rv with yl := yl, yr := yr } } :=
  ⟨⟨_, _, _, _, rfl⟩, fun _ => ⟨rfl, rfl⟩, id⟩

theorem reverbFrame_regionAllpass (s : State cfg) (r : Fin 7) (g acc : F32) :
    ReverbFrame s (regionAllpass s r g acc).1 := reverbFrame_writeOffset ..

theorem reverbFrame_rvTone (s : State cfg) (v : F32) : ReverbFrame s (rvTone s v).1 :=
  ((reverbFrame_rotate ..).trans (reverbFrame_setOpZ1 ..)).trans (reverbFrame_setOpZ1 ..)

theorem reverbFrame_rvDiffuse (s : State cfg) (v : F32) : ReverbFrame s (rvDiffuse s v).1 :=
  (((reverbFrame_regionAllpass ..).trans (reverbFrame_regionAllpass ..)).trans (reverbFrame_regionAllpass ..)).trans
    (reverbFrame_regionAllpass ..)

theorem reverbFrame_rvCombs (s : State cfg) (v : F32) : ReverbFrame s (rvCombs s v) :=
  ((((reverbFrame_setOpZ1 ..).trans (reverbFrame_setOpZ1 ..)).trans (reverbFrame_regionAllpass ..)).trans
    (reverbFrame_regionAllpass ..)).trans (reverbFrame_crossFeed ..)

theorem reverbFrame_rvEcho (s : State cfg) (v : F32) : ReverbFrame s (rvEcho s v).1 :=
  (reverbFrame_setOpZ1 ..).trans (reverbFrame_writeOffset ..)

/-- One sample through the reverberator, stage by stage. -/
theorem reverbStep_frame (s : State cfg) (v : F32) : ReverbFrame s (reverbStep s v).1 :=
  (((reverbFrame_rvTone ..).trans (reverbFrame_rvDiffuse ..)).trans (reverbFrame_rvCombs ..)).trans
    (reverbFrame_rvEcho ..)

/-! ## What a register write can reach (spec/10_state.md R73) -/

/-- An envelope inside its bounds: the level in 0..65535, every step from 1 on (spec/10_state.md R63, R64). -/
def Envelope.InBounds (v : Envelope) : Prop :=
  v.level.toNat ≤ 65535 ∧ 1 ≤ v.astep.toNat ∧ 1 ≤ v.dstep.toNat ∧ 1 ≤ v.rstep.toNat

/-- The states that a legal write to a mapped register can reach: one cursor, one unit of one bank, or the cross-feed
registers. -/
inductive RegWritten (s : State cfg) : State cfg → Prop
  | cursor (d : Fin cfg.ndl) (v : Word) : RegWritten s (setCursor s d v)
  | onePole (u : Fin cfg.nop) (o : OnePole) : RegWritten s (setOp s u o)
  | biquad (u : Fin cfg.nbq) (b : Biquad) : RegWritten s (setBq s u b)
  | envelope (e : Fin cfg.nenv) (v : Envelope) (hv : s.env[e].InBounds → v.InBounds) : RegWritten s (setEnv s e v)
  | meter (m : Fin cfg.nlm) (v : Meter cfg) : RegWritten s (setLm s m v)
  | crossFeed (yl yr : F32) : RegWritten s { s with rv := { s.rv with yl := yl, yr := yr } }

/-- The legal value of a step register is from 1 on (R73). -/
theorem one_le_legalStep (v : Word) : 1 ≤ (legalStep v).toNat := by
  have h : (legalStep v).toNat = clampu v.toNat 1 65535 := by
    rw [legalStep, BitVec.toNat_ofNat, Nat.mod_eq_of_lt (by unfold clampu; omega)]
  rw [h]
  unfold clampu
  omega

/-- The legal value of an envelope level is at most 65535 (R73). -/
theorem legalLevel_le (v : Word) : (BitVec.ofNat 32 (min v.toNat 65535)).toNat ≤ 65535 := by
  rw [BitVec.toNat_ofNat]
  omega

theorem regWritten_of_regWrite {s t : State cfg} {r : RegName cfg} {v : Word} (h : regWrite s r v = some t) :
    RegWritten s t := by
  cases r
  case envSt e =>
    obtain ⟨st, -, rfl⟩ := Option.map_eq_some_iff.1 h
    exact .envelope e _ id
  case dlDp => cases h; exact .cursor _ _
  case opA0 | opZ1 => cases h; exact .onePole _ _
  case bqA0 | bqA1 | bqA2 | bqB1 | bqB2 | bqZ1 | bqZ2 => cases h; exact .biquad _ _
  case envLevel e => cases h; exact .envelope e _ fun ⟨_, ha, hd, hr⟩ => ⟨legalLevel_le v, ha, hd, hr⟩
  case envAstep e => cases h; exact .envelope e _ fun ⟨hl, _, hd, hr⟩ => ⟨hl, one_le_legalStep v, hd, hr⟩
  case envDstep e => cases h; exact .envelope e _ fun ⟨hl, ha, _, hr⟩ => ⟨hl, ha, one_le_legalStep v, hr⟩
  case envRstep e => cases h; exact .envelope e _ fun ⟨hl, ha, hd, _⟩ => ⟨hl, ha, hd, one_le_legalStep v⟩
  case envSus e | envGate e => cases h; exact .envelope e _ id
  case lmCoef | lmLevel | lmPeak | lmHold => cases h; exact .meter _ _
  case rvYl => cases h; exact .crossFeed _ s.rv.yr
  case rvYr => cases h; exact .crossFeed s.rv.yl _
  all_goals cases h

/-! ## What a command can reach -/

/-- Command `i`, its operands in range, takes `s` to this state before pc advances. The two commands of several stages
name the registers that their stages leave changed, so that every frame can be read off the states. -/
inductive Effect (s : State cfg) : Instr → State cfg → Prop
  | nop : Effect s .nop s
  | reset : Effect s .reset (resetState s.fs.toNat s)
  | setfs (hz : Word) : Effect s (.setfs hz) (setRate hz.toNat s)
  | cstep (rd : Reg) : Effect s (.cstep rd) (setX { s with
      ctrlCnt := if ctrlTick s then 0#32 else s.ctrlCnt + 1#32
      status := setCtick (ctrlTick s) s.status } rd (if ctrlTick s then 1#32 else 0#32))
  | ldi (rd : Reg) (imm : Word) : Effect s (.ldi rd imm) (setX s rd imm)
  | mov (rd rs1 : Reg) : Effect s (.mov rd rs1) (setX s rd (getX s rs1))
  | rdreg (rd : Reg) (a : BitVec 16) (r : RegName cfg) (hr : regAt cfg a = some r) :
    Effect s (.rdreg rd a) (setX s rd (regRead s r))
  | wrreg (rs1 : Reg) (a : BitVec 16) (r : RegName cfg) (hr : regAt cfg a = some r) (t : State cfg)
    (ht : regWrite s r (getX s rs1) = some t) : Effect s (.wrreg rs1 a) t
  | setk (k : KReg) (rs1 : Reg) :
    Effect s (.setk k rs1) { s with k := s.k.set k (clampf (getX s rs1) (fneg cfg.kMax) cfg.kMax) }
  | dlRot (u : UnitField) (d : Fin cfg.ndl) (hd : unitOf cfg.ndl u = some d) : Effect s (.dlRot u) (rotate s d)
  | dlWr (u : UnitField) (d : Fin cfg.ndl) (hd : unitOf cfg.ndl u = some d) (rs1 : Reg) (off : Word) :
    Effect s (.dlWr u rs1 off) (writeOffset s d off.toNat (getX s rs1))
  | dlRd (rd : Reg) (u : UnitField) (d : Fin cfg.ndl) (hd : unitOf cfg.ndl u = some d) (off : Word) :
    Effect s (.dlRd rd u off) (setX s rd (readOffset s d off.toNat))
  | dlRdi (rd : Reg) (u : UnitField) (d : Fin cfg.ndl) (hd : unitOf cfg.ndl u = some d) (qoff : Word) :
    Effect s (.dlRdi rd u qoff) (setX s rd (readInterpolated s d qoff.toNat))
  | dlAp (rd : Reg) (u : UnitField) (d : Fin cfg.ndl) (hd : unitOf cfg.ndl u = some d) (k : KReg)
    (inOff outOff : BitVec 16) :
    Effect s (.dlAp rd u k inOff outOff) (setX (allpass s d inOff.toNat outOff.toNat s.k[k] (getX s rd)).1 rd
      (allpass s d inOff.toNat outOff.toNat s.k[k] (getX s rd)).2)
  | dlClr (u : UnitField) (d : Fin cfg.ndl) (hd : unitOf cfg.ndl u = some d) : Effect s (.dlClr u) (clearLine s d)
  | opSet (f : UnitField) (u : Fin cfg.nop) (hu : unitOf cfg.nop f = some u) (rs1 : Reg) :
    Effect s (.opSet f rs1) (setCutoff s u (getX s rs1))
  | opLp (rd rs1 : Reg) (f : UnitField) (u : Fin cfg.nop) (hu : unitOf cfg.nop f = some u) :
    Effect s (.opLp rd rs1 f) (setX (lowpass s u (getX s rs1)).1 rd (lowpass s u (getX s rs1)).2)
  | opHp (rd rs1 : Reg) (f : UnitField) (u : Fin cfg.nop) (hu : unitOf cfg.nop f = some u) :
    Effect s (.opHp rd rs1 f) (setX (highpass s u (getX s rs1)).1 rd (highpass s u (getX s rs1)).2)
  | opRst (f : UnitField) (u : Fin cfg.nop) (hu : unitOf cfg.nop f = some u) : Effect s (.opRst f) (setOpZ1 s u fZero)
  | bqCfg (f : UnitField) (u : Fin cfg.nbq) (hu : unitOf cfg.nbq f = some u) (ty : BiquadType) (rfc rq rgain : Reg) :
    Effect s (.bqCfg f ty rfc rq rgain)
      (setBq s u (configureBiquad cfg s.bq[u] ty (getX s rfc) (getX s rq) (getX s rgain) s.fsf))
  | bqProc (rd rs1 : Reg) (f : UnitField) (u : Fin cfg.nbq) (hu : unitOf cfg.nbq f = some u) :
    Effect s (.bqProc rd rs1 f) (setX (biquadStep s u (getX s rs1)).1 rd (biquadStep s u (getX s rs1)).2)
  | bqRst (f : UnitField) (u : Fin cfg.nbq) (hu : unitOf cfg.nbq f = some u) :
    Effect s (.bqRst f) (setBq s u { s.bq[u] with z1 := fZero, z2 := fZero })
  | envMode (f : UnitField) (e : Fin cfg.nenv) (he : unitOf cfg.nenv f = some e) (m : EnvMode) :
    Effect s (.envMode f m) (setEnv s e (switchMode s.env[e] m))
  | envTime (f : UnitField) (e : Fin cfg.nenv) (he : unitOf cfg.nenv f = some e) (sel : TimeSel) (rs1 : Reg) :
    Effect s (.envTime f sel rs1) (setEnv s e (setStep s.env[e] sel (stepOfKnob cfg (getX s rs1))))
  | envSus (f : UnitField) (e : Fin cfg.nenv) (he : unitOf cfg.nenv f = some e) (rs1 : Reg) :
    Effect s (.envSus f rs1) (setEnv s e { s.env[e] with sus := sustainOfKnob (getX s rs1) })
  | envTick (rd : Reg) (f : UnitField) (e : Fin cfg.nenv) (he : unitOf cfg.nenv f = some e) (gate : Bool) :
    Effect s (.envTick rd f gate) (setX (setEnv s e (envelopeTick s.env[e] gate)) rd (envelopeTick s.env[e] gate).level)
  | envRdf (rd : Reg) (f : UnitField) (e : Fin cfg.nenv) (he : unitOf cfg.nenv f = some e) :
    Effect s (.envRdf rd f) (setX s rd (fdiv (i2f s.env[e].level.toInt) f65535))
  | envRst (f : UnitField) (e : Fin cfg.nenv) (he : unitOf cfg.nenv f = some e) :
    Effect s (.envRst f) (setEnv s e { s.env[e] with st := .idle, level := 0#32, gate := false })
  | tlookup (rd rs1 : Reg) : Effect s (.tlookup rd rs1) (setX s rd ((stepOfKnob cfg (getX s rs1)).setWidth 32))
  | lmCfg (f : UnitField) (m : Fin cfg.nlm) (hm : unitOf cfg.nlm f = some m) (rs1 : Reg) (c : BitVec 4)
    (pre : Option (Fin cfg.nbq)) (hp : preselOf cfg c = some pre) (hold : Word) :
    Effect s (.lmCfg f rs1 c hold) (setLm s m { s.lm[m] with
      fcs := getX s rs1, presel := pre, holdCfg := hold, coef := meterCoef cfg (getX s rs1) s.fsf })
  | lmProc (f : UnitField) (m : Fin cfg.nlm) (hm : unitOf cfg.nlm f = some m) (rs1 : Reg) (bq : Vector Biquad cfg.nbq)
    (hpre : (prefilter s s.lm[m].presel (getX s rs1)).1 = { s with bq := bq }) :
    Effect s (.lmProc f rs1) (setLm { s with bq := bq } m
      (meterAdvance s.lm[m] (fabs (prefilter s s.lm[m].presel (getX s rs1)).2)))
  | lmRd (rd : Reg) (f : UnitField) (m : Fin cfg.nlm) (hm : unitOf cfg.nlm f = some m) (sel : ReadSel) :
    Effect s (.lmRd rd f sel) (setX s rd (meterReading s.lm[m] sel))
  | lmRst (f : UnitField) (m : Fin cfg.nlm) (hm : unitOf cfg.nlm f = some m) :
    Effect s (.lmRst f) (setLm s m { s.lm[m] with level := fZero, peak := fZero, hold := 0#32 })
  | rvChar (c : BitVec 4) (p : Fin cfg.npreset) (hp : presetOf cfg c = some p) : Effect s (.rvChar c) (applyPreset p s)
  | rvParam (sel : ParamSel) (rs1 : Reg) :
    Effect s (.rvParam sel rs1) { s with rv := applyParam s.rv sel (getX s rs1) }
  | rvEtime (q : Word) :
    Effect s (.rvEtime q) { s with rv := { s.rv with etimereq := q, etime := echoTimeOf cfg q s.fs.toNat } }
  | rvProc (rl rr rs1 : Reg) (dl : Vector DelayLine cfg.ndl) (op : Vector OnePole cfg.nop) (yl yr : F32)
    (hstep : (reverbStep s (getX s rs1)).1 = { s with dl := dl, op := op, rv := { s.rv with yl := yl, yr := yr } }) :
    Effect s (.rvProc rl rr rs1)
      (setX (setX { s with dl := dl, op := op, rv := { s.rv with yl := yl, yr := yr } } rl
        (reverbStep s (getX s rs1)).2.1) rr (reverbStep s (getX s rs1)).2.2)
  | rvRst : Effect s .rvRst (clearReverb s)

/-- A command's run has ended in `t`: by its effect, or by the exception on its own word
(spec/60_exceptions.md R271). -/
def EndsIn (i : Instr) (s t : State cfg) : Prop :=
  (∃ u, Effect s i u ∧ advance u = t) ∨ raiseIllegal (encode i) s = t

theorem endsIn_complete {i : Instr} {s t u : State cfg} (hu : Effect s i u) (h : complete u = .next t) : EndsIn i s t :=
  .inl ⟨u, hu, (complete_eq_next u t).1 h⟩

theorem endsIn_illegal {i : Instr} {s t : State cfg} (h : illegal i s = .next t) : EndsIn i s t :=
  .inr ((illegal_eq_next i s t).1 h)

/-- The inversion of one command. -/
theorem execAt_endsIn {i : Instr} {s t : State cfg} (h : execAt i s = .next t) : EndsIn i s t := by
  cases i
  case nop => exact endsIn_complete .nop h
  case reset => exact endsIn_complete .reset h
  case setfs => exact endsIn_complete (.setfs _) h
  case cstep => exact endsIn_complete (.cstep _) h
  case ldi => exact endsIn_complete (.ldi _ _) h
  case mov => exact endsIn_complete (.mov _ _) h
  case setk => exact endsIn_complete (.setk _ _) h
  case tlookup => exact endsIn_complete (.tlookup _ _) h
  case rvParam => exact endsIn_complete (.rvParam _ _) h
  case rvEtime => exact endsIn_complete (.rvEtime _) h
  case rvProc rl rr rs1 =>
    obtain ⟨dl, op, yl, yr, hstep⟩ := (reverbStep_frame s (getX s rs1)).record
    simp only [execAt, execRvProc, hstep] at h
    exact endsIn_complete (.rvProc rl rr rs1 dl op yl yr hstep) h
  case rvRst => exact endsIn_complete .rvRst h
  case wrreg =>
    simp only [execAt, execWrreg] at h
    split at h
    · split at h
      · exact endsIn_complete (by constructor <;> assumption) h
      · exact endsIn_illegal h
    · exact endsIn_illegal h
  case lmProc f rs1 =>
    simp only [execAt, execLmProc] at h
    split at h
    · rename_i m hm
      obtain ⟨bq, hpre, -⟩ := prefilter_frame s s.lm[m].presel (getX s rs1)
      rw [hpre] at h
      exact endsIn_complete (.lmProc f m hm rs1 bq hpre) h
    · exact endsIn_illegal h
  all_goals
    simp only [execAt, execRdreg, execDlRot, execDlWr, execDlRd, execDlRdi, execDlAp, execDlClr, execOpSet, execOpLp,
      execOpHp, execOpRst, execBqCfg, execBqProc, execBqRst, execEnvMode, execEnvTime, execEnvSus, execEnvTick,
      execEnvRdf, execEnvRst, execLmCfg, execLmRd, execLmRst, execRvChar] at h
    split at h
    · exact endsIn_complete (by constructor <;> assumption) h
    · exact endsIn_illegal h

end Sys2Proof.Machine
end

section
/-! SUPPORT. The frames of the commands over the host's side, the control registers, STATUS and ERRINFO, the sample
registers, and the filters' and meters' parameters and histories (spec/10_state.md R41 to R49, R55, R160). -/

namespace Sys2Proof.Machine

variable {cfg : Params} {s t u : State cfg} {i : Instr}

/-! ## The host's side -/

/-- The mailbox, its queues, the host's list and pc: what no command's effect touches. -/
def State.hostSide (s : State cfg) : Vector Word Config.NP × Vector (List Word) Config.NP × List HostEvent × Nat :=
  (s.p, s.pq, s.input, s.pc)

theorem RegWritten.hostSide (h : RegWritten s t) : t.hostSide = s.hostSide := by cases h <;> rfl

theorem Effect.hostSide (h : Effect s i u) : u.hostSide = s.hostSide := by
  cases h
  case wrreg ht => exact (regWritten_of_regWrite ht).hostSide
  all_goals rfl

/-- A command that has ended kept the mailbox and the list and advanced pc, also by the exception. -/
theorem EndsIn.hostSide (h : EndsIn i s t) : t.hostSide = (s.p, s.pq, s.input, s.pc + 1) := by
  rcases h with ⟨u, hu, rfl⟩ | rfl
  · have hhost := hu.hostSide
    simp only [State.hostSide, Prod.mk.injEq] at hhost ⊢
    obtain ⟨hp, hpq, hinput, hpc⟩ := hhost
    exact ⟨hp, hpq, hinput, congrArg (· + 1) hpc⟩
  · rfl

/-! ## The control registers -/

/-- The rate registers and the counter (R46, R47). -/
def State.rates (s : State cfg) : Word × F32 × Word × Word := (s.fs, s.fsf, s.ctrlDiv, s.ctrlCnt)

/-- The coefficient registers, the rate registers, the counter and CTICK. -/
def State.control (s : State cfg) : Vector F32 Config.NK × (Word × F32 × Word × Word) × Bool :=
  (s.k, s.rates, s.status.ctick)

theorem RegWritten.control (h : RegWritten s t) : t.control = s.control := by cases h <;> rfl

/-- The commands that own a control register. -/
def ownsControl : Instr → Bool
  | .reset | .setfs _ | .cstep _ | .setk _ _ => true
  | _ => false

theorem Effect.control (h : Effect s i u) (hi : ownsControl i = false) : u.control = s.control := by
  cases h
  case reset | setfs | cstep | setk => cases hi
  case wrreg ht => exact (regWritten_of_regWrite ht).control
  all_goals rfl

theorem EndsIn.control (h : EndsIn i s t) (hi : ownsControl i = false) : t.control = s.control := by
  rcases h with ⟨u, hu, rfl⟩ | rfl
  · exact hu.control hi
  · rfl

theorem control_eq_iff : t.control = s.control ↔ t.k = s.k ∧ t.fs = s.fs ∧ t.fsf = s.fsf ∧ t.ctrlDiv = s.ctrlDiv
    ∧ t.ctrlCnt = s.ctrlCnt ∧ t.status.ctick = s.status.ctick := by
  simp [State.control, State.rates, and_assoc]

/-! ## ILL and ERRINFO -/

/-- ILL and ERRINFO, which only RESET and the exception write (R43, R44). -/
def State.exceptionRecord (s : State cfg) : Bool × Word := (s.status.ill, s.errinfo)

theorem RegWritten.exceptionRecord (h : RegWritten s t) : t.exceptionRecord = s.exceptionRecord := by cases h <;> rfl

theorem Effect.exceptionRecord (h : Effect s i u) (hi : i ≠ .reset) : u.exceptionRecord = s.exceptionRecord := by
  cases h
  case reset => exact absurd rfl hi
  case wrreg ht => exact (regWritten_of_regWrite ht).exceptionRecord
  all_goals rfl

/-- From `s` to `t` the exception's record stands, or `t` has ILL set. -/
def RecordKept (s t : State cfg) : Prop := t.exceptionRecord = s.exceptionRecord ∨ t.status.ill = true

theorem recordKept_uiDrain (s : State cfg) (p : Fin Config.NP) : RecordKept s (uiDrain s p) := by
  rw [uiDrain_eq]
  split <;> exact .inl rfl

theorem EndsIn.recordKept (h : EndsIn i s t) (hi : i ≠ .reset) : RecordKept s t := by
  rcases h with ⟨u, hu, rfl⟩ | rfl
  · exact .inl (hu.exceptionRecord hi)
  · exact .inr rfl

/-- A word that decodes to no RESET: its command, or the exception. -/
theorem stepCommandAt_recordKept {c : CommandWord} (hc : decodeAt cfg c ≠ .ok .reset)
    (h : stepCommandAt c s = .next t) : RecordKept s t := by
  unfold stepCommandAt at h
  split at h
  · rename_i j hj
    exact (execAt_endsIn h).recordKept fun hr => hc (hr ▸ hj)
  · cases h
    exact .inr rfl

/-- Every kind of input but a word that decodes to RESET. -/
theorem stepAt_recordKept (h : stepAt s = .next t)
    (hc : ∀ c rest, s.input = .command c :: rest → decodeAt cfg c ≠ .ok .reset) : RecordKept s t := by
  unfold stepAt at h
  split at h
  · cases h; exact .inl rfl
  · rename_i c rest hs
    exact stepCommandAt_recordKept (s := { s with input := rest }) (hc c rest hs) h
  · cases h; exact .inl rfl
  · cases h; exact recordKept_uiDrain _ _

/-! ## The sample registers -/

theorem getX_setX_of_not_mem {rd r : Reg} (v : Word) (h : r ∉ [rd]) : getX (setX s rd v) r = getX s r :=
  getX_setX_of_ne s v fun he => h (by simp [he])

theorem RegWritten.x (h : RegWritten s t) : t.x = s.x := by cases h <;> rfl

theorem Effect.sampleRegister (h : Effect s i u) {r : Reg} (hr : r ∉ destinations i) : getX u r = getX s r := by
  cases h
  case reset => exact absurd (List.mem_finRange r) hr
  case wrreg ht => simp only [getX, (regWritten_of_regWrite ht).x]
  case cstep | ldi | mov | rdreg | dlRd | dlRdi | envRdf | tlookup | lmRd => exact getX_setX_of_not_mem _ hr
  case dlAp | opLp | opHp | bqProc | envTick => exact getX_setX_of_not_mem _ hr
  case rvProc =>
    rw [destinations, List.mem_pair, not_or] at hr
    exact (getX_setX_of_ne _ _ hr.2).trans (getX_setX_of_ne _ _ hr.1)
  all_goals rfl

theorem EndsIn.sampleRegister (h : EndsIn i s t) {r : Reg} (hr : r ∉ destinations i) : getX t r = getX s r := by
  rcases h with ⟨u, hu, rfl⟩ | rfl
  · exact hu.sampleRegister hr
  · rfl

end Sys2Proof.Machine

namespace Sys2Proof.Proofs

open Sys2Proof.Machine

/-- Settles O12: the host's side is outside every command's effect. -/
theorem commandsKeepTheMailboxAndAdvancePc : Obligations.CommandsKeepTheMailboxAndAdvancePc := by
  intro i s t h
  have hhost := (execAt_endsIn (i := i) h).hostSide
  simpa [State.hostSide] using hhost

/-- Settles O13: the four commands that own a control register one by one, the others by their frame. -/
theorem controlRegistersChangeOnlyByTheirCommands : Obligations.ControlRegistersChangeOnlyByTheirCommands := by
  intro i s t h
  have hend := execAt_endsIn (i := i) h
  cases i
  case reset =>
    rcases hend with ⟨u, ⟨⟩, rfl⟩ | rfl
    · exact BitVec.ofNat_toNat ..
    · rfl
  case setk k rs1 =>
    rcases hend with ⟨u, ⟨⟩, rfl⟩ | rfl
    · exact ⟨fun j hj => vector_set_of_ne _ _ hj, rfl, rfl, rfl, rfl, rfl⟩
    · exact ⟨fun _ _ => rfl, rfl, rfl, rfl, rfl, rfl⟩
  case setfs =>
    rcases hend with ⟨u, ⟨⟩, rfl⟩ | rfl <;> exact ⟨rfl, rfl⟩
  case cstep =>
    rcases hend with ⟨u, ⟨⟩, rfl⟩ | rfl <;> exact ⟨rfl, rfl, rfl, rfl⟩
  all_goals exact control_eq_iff.1 (hend.control rfl)

/-- Settles O14: a step that runs no RESET keeps the record of the exception or ends with ILL set. -/
theorem illegalFlagIsStickyUntilReset : Obligations.IllegalFlagIsStickyUntilReset := by
  intro s t h hc
  rcases stepAt_recordKept (cfg := Config.default) h hc with hkept | hill
  · obtain ⟨hill, herr⟩ := Prod.mk.inj hkept
    exact ⟨fun hs => hill.trans hs, fun hne => absurd herr hne⟩
  · exact ⟨fun _ => hill, fun _ => hill⟩

/-- Settles O15: the frame of the sample registers. -/
theorem sampleRegistersChangeOnlyAsDestinations : Obligations.SampleRegistersChangeOnlyAsDestinations :=
  fun i _ _ _ h hr => (execAt_endsIn (i := i) h).sampleRegister hr

end Sys2Proof.Proofs
end

section
/-! SUPPORT. Coefficients and histories of the filters and meters, kept apart (spec/10_state.md R55,
spec/42_filters.md R160). -/

namespace Sys2Proof.Machine

variable {cfg : Params} {s t u : State cfg} {i : Instr}

/-! ## Coefficients -/

/-- Every parameter and coefficient of every filter and meter stands. -/
def KeepsCoefficients (s t : State cfg) : Prop :=
  (∀ u : Fin cfg.nop, OnePole.SameCoefficients t.op[u] s.op[u])
    ∧ (∀ u : Fin cfg.nbq, Biquad.SameCoefficients t.bq[u] s.bq[u])
    ∧ (∀ m : Fin cfg.nlm, Meter.SameCoefficients t.lm[m] s.lm[m])

theorem keepsCoefficients_of_banks_eq (hop : t.op = s.op) (hbq : t.bq = s.bq) (hlm : t.lm = s.lm) :
    KeepsCoefficients s t := by
  unfold KeepsCoefficients
  rw [hop, hbq, hlm]
  exact ⟨fun _ => ⟨rfl, rfl⟩, fun _ => ⟨rfl, rfl, rfl, rfl, rfl⟩, fun _ => ⟨rfl, rfl, rfl, rfl⟩⟩

theorem keepsCoefficients_of_op (hop : ∀ u : Fin cfg.nop, OnePole.SameCoefficients t.op[u] s.op[u]) (hbq : t.bq = s.bq)
    (hlm : t.lm = s.lm) : KeepsCoefficients s t :=
  have hrefl := keepsCoefficients_of_banks_eq (s := s) (t := { t with op := s.op }) rfl hbq hlm
  ⟨hop, hrefl.2⟩

theorem keepsCoefficients_of_bq (hop : t.op = s.op) (hbq : ∀ u : Fin cfg.nbq, Biquad.SameCoefficients t.bq[u] s.bq[u])
    (hlm : t.lm = s.lm) : KeepsCoefficients s t :=
  have hrefl := keepsCoefficients_of_banks_eq (s := s) (t := { t with bq := s.bq }) hop rfl hlm
  ⟨hrefl.1, hbq, hrefl.2.2⟩

/-- One sample measured changes the measurement alone. -/
theorem meterAdvance_sameCoefficients (m : Meter cfg) (v : F32) : (meterAdvance m v).SameCoefficients m := by
  unfold meterAdvance
  split <;> exact ⟨rfl, rfl, rfl, rfl⟩

/-- RV.RST clears histories of the one-pole bank. -/
theorem clearReverb_op (s : State cfg) (u : Fin cfg.nop) : OnePole.SameCoefficients (clearReverb s).op[u] s.op[u] := by
  simp only [clearReverb, Fin.getElem_fin, Vector.getElem_mapFinIdx]
  split <;> exact ⟨rfl, rfl⟩

/-- The commands that write a parameter or a coefficient of a filter or a meter. -/
def configures : Instr → Bool
  | .reset | .wrreg _ _ | .setfs _ | .opSet _ _ | .bqCfg _ _ _ _ _ | .rvChar _ | .lmCfg _ _ _ _ => true
  | _ => false

theorem Effect.keepsCoefficients (h : Effect s i u) (hi : configures i = false) : KeepsCoefficients s u := by
  cases h
  case reset | wrreg | setfs | opSet | bqCfg | rvChar | lmCfg => cases hi
  case opLp | opHp | opRst => exact keepsCoefficients_of_op (onePole_set_z1 _ _ _) rfl rfl
  case rvRst => exact keepsCoefficients_of_op (clearReverb_op s) rfl rfl
  case rvProc rs1 _ _ _ _ hstep =>
    have hop := (reverbStep_frame s (getX s rs1)).coefficients
    rw [hstep] at hop
    exact keepsCoefficients_of_op hop rfl rfl
  case bqProc | bqRst => exact keepsCoefficients_of_bq rfl (biquad_set ⟨rfl, rfl, rfl, rfl, rfl⟩) rfl
  case lmProc m _ rs1 bq hpre =>
    obtain ⟨bq', hpre', hbq⟩ := prefilter_frame s s.lm[m].presel (getX s rs1)
    obtain rfl : bq' = bq := congrArg State.bq (hpre'.symm.trans hpre)
    exact ⟨fun _ => ⟨rfl, rfl⟩, hbq, meter_set (meterAdvance_sameCoefficients _ _)⟩
  case lmRst => exact ⟨fun _ => ⟨rfl, rfl⟩, fun _ => ⟨rfl, rfl, rfl, rfl, rfl⟩, meter_set ⟨rfl, rfl, rfl, rfl⟩⟩
  all_goals exact keepsCoefficients_of_banks_eq rfl rfl rfl

theorem EndsIn.keepsCoefficients (h : EndsIn i s t) (hi : configures i = false) : KeepsCoefficients s t := by
  rcases h with ⟨u, hu, rfl⟩ | rfl
  · exact hu.keepsCoefficients hi
  · exact keepsCoefficients_of_banks_eq rfl rfl rfl

/-! ## Histories -/

def OnePole.SameHistory (o' o : OnePole) : Prop := o'.z1 = o.z1

def Biquad.SameHistory (b' b : Biquad) : Prop := b'.z1 = b.z1 ∧ b'.z2 = b.z2

/-- Every filter history stands. -/
def KeepsHistories (s t : State cfg) : Prop :=
  (∀ u : Fin cfg.nop, OnePole.SameHistory t.op[u] s.op[u]) ∧ (∀ u : Fin cfg.nbq, Biquad.SameHistory t.bq[u] s.bq[u])

theorem keepsHistories_of_banks_eq (hop : t.op = s.op) (hbq : t.bq = s.bq) : KeepsHistories s t := by
  unfold KeepsHistories
  rw [hop, hbq]
  exact ⟨fun _ => rfl, fun _ => ⟨rfl, rfl⟩⟩

/-- A new rate derives coefficients again and no history (spec/40_system.md R122). -/
theorem keepsHistories_setRate (s : State cfg) (hz : Nat) : KeepsHistories s (setRate hz s) := by
  constructor <;> intro u
  · simp [setRate, OnePole.SameHistory, deriveOnePole]
  · simp [setRate, Biquad.SameHistory, deriveBiquad]

theorem keepsHistories_setCutoff (s : State cfg) (u : Fin cfg.nop) (fc : F32) : KeepsHistories s (setCutoff s u fc) :=
  ⟨vector_set_rel OnePole.SameHistory (fun _ => rfl) s.op rfl, fun _ => ⟨rfl, rfl⟩⟩

/-- A preset gives units 0 to 4 cutoffs and coefficients and keeps Z1 (spec/45_reverberator.md R242). -/
theorem keepsHistories_applyPreset (s : State cfg) (p : Fin cfg.npreset) : KeepsHistories s (applyPreset p s) := by
  refine ⟨fun u => ?_, fun _ => ⟨rfl, rfl⟩⟩
  simp only [applyPreset, Fin.getElem_fin, Vector.getElem_mapFinIdx, presetOnePole]
  split <;> rfl

/-- BQ.CFG with the type in force keeps both histories (R165). -/
theorem keepsHistories_configureBiquad (s : State cfg) (u : Fin cfg.nbq) {ty : BiquadType} (hty : ty = s.bq[u].ty)
    (fc q gain : F32) : KeepsHistories s (setBq s u (configureBiquad cfg s.bq[u] ty fc q gain s.fsf)) :=
  ⟨fun _ => rfl, vector_set_rel Biquad.SameHistory (fun _ => ⟨rfl, rfl⟩) s.bq ⟨if_pos hty, if_pos hty⟩⟩

theorem eq_unitField_of_unitOf {n : Nat} {f : UnitField} {i : Fin n} (h : unitOf n f = some i) : f = unitField i := by
  rw [unitOf_eq_some_iff] at h
  rw [unitField, ← h, BitVec.ofNat_toNat, BitVec.setWidth_eq]

end Sys2Proof.Machine

namespace Sys2Proof.Proofs

open Sys2Proof.Machine

/-- Settles O18: the configuring commands one by one, the others by the frame of the coefficients. -/
theorem coefficientsAndHistoriesAreKeptApart : Obligations.CoefficientsAndHistoriesAreKeptApart := by
  intro i s t h
  have hend := execAt_endsIn (i := i) h
  cases i
  case reset | wrreg => trivial
  case setfs =>
    rcases hend with ⟨u, ⟨⟩, rfl⟩ | rfl
    · exact keepsHistories_setRate s _
    · exact keepsHistories_of_banks_eq (s := s) rfl rfl
  case opSet =>
    rcases hend with ⟨u, ⟨⟩, rfl⟩ | rfl
    · exact keepsHistories_setCutoff s _ _
    · exact keepsHistories_of_banks_eq (s := s) rfl rfl
  case bqCfg =>
    intro histories coefficients hty
    rcases hend with ⟨u, ⟨⟩, rfl⟩ | rfl
    · rename_i v hv
      exact keepsHistories_configureBiquad s v (hty v (eq_unitField_of_unitOf hv)) _ _ _
    · exact keepsHistories_of_banks_eq (s := s) rfl rfl
  case rvChar =>
    rcases hend with ⟨u, ⟨⟩, rfl⟩ | rfl
    · exact keepsHistories_applyPreset s _
    · exact keepsHistories_of_banks_eq (s := s) rfl rfl
  case lmCfg =>
    rcases hend with ⟨u, ⟨⟩, rfl⟩ | rfl <;> exact keepsHistories_of_banks_eq (s := s) rfl rfl
  all_goals exact hend.keepsCoefficients rfl

end Sys2Proof.Proofs
end

section
/-! SUPPORT. Bounds on rounded results (spec/00_scope.md R23), the index a knob selects, and the step it stands for
(spec/43_envelope.md R191, R196). -/

namespace Sys2Proof.Machine

open Sys2Proof.Laws

/-! ## Rounding -/

/-- The patterns of one sign stand in the order of their magnitude bits. -/
theorem unitsOfMag_strictMono : StrictMono unitsOfMag :=
  strictMono_nat_of_lt_succ fun c => by
    obtain ⟨k, m, rfl, hm, hk⟩ := exists_scaled c
    rw [add_assoc, unitsOfMag_scaled hm.le hk, unitsOfMag_scaled hm (hk.imp_right Nat.le_succ_of_le)]
    exact Nat.mul_lt_mul_of_pos_right (Nat.lt_succ_self m) (Nat.two_pow_pos k)

/-- A number at most a pattern's value rounds to at most that pattern. -/
theorem roundMag_le {n d c : Nat} (hd : 0 < d) (h : n ≤ unitsOfMag c * d) : roundMag n d ≤ c := by
  have hnear := (roundIndex_nearest n c hd).1
  have hle : unitsOfMag (roundIndex n d) ≤ unitsOfMag c := by
    by_contra hlt
    have hmul := Nat.mul_lt_mul_of_pos_right (not_le.1 hlt) hd
    rw [← Nat.cast_mul, ← Nat.cast_mul] at hnear
    omega
  exact (Nat.min_le_left _ _).trans (unitsOfMag_strictMono.le_iff_le.1 hle)

/-- A number that a finite pattern has exactly rounds to it. -/
theorem roundMag_exact {d c : Nat} (hd : 0 < d) (hc : c ≤ infMag) : roundMag (unitsOfMag c * d) d = c := by
  have hnear := (roundIndex_nearest (unitsOfMag c * d) c hd).1
  rw [← Nat.cast_mul, ← Nat.cast_mul, sub_self, Int.natAbs_zero, Nat.le_zero, Int.natAbs_eq_zero, sub_eq_zero,
    Nat.cast_inj] at hnear
  rw [roundMag_eq, unitsOfMag_strictMono.injective (Nat.eq_of_mul_eq_mul_right hd hnear), Nat.min_eq_left hc]

/-! ## Products with a factor of magnitude at most one -/

theorem isFinite_of_fmag_le {a b : F32} (h : fmag a ≤ fmag b) (hb : isFinite b = true) : isFinite a = true :=
  decide_eq_true (h.trans_lt (of_decide_eq_true hb))

theorem funits_fOne : funits fOne = 2 ^ 149 := by decide

theorem funits_le_of_fmag_le {a b : F32} (h : fmag a ≤ fmag b) : funits a ≤ funits b := unitsOfMag_strictMono.monotone h

theorem fmag_fmul_le_right {a b : F32} (ha : fmag a ≤ fmag fOne) (hb : isFinite b = true) :
    fmag (fmul a b) ≤ fmag b := by
  rw [fmul_finite (isFinite_of_fmag_le ha (by decide)) hb, fmag_pack_roundMag]
  refine roundMag_le (Nat.two_pow_pos 149) ?_
  have hunits := funits_le_of_fmag_le ha
  rw [funits_fOne] at hunits
  rw [mul_comm]
  exact Nat.mul_le_mul_left _ hunits

/-! ## Knobs -/

/-- A number in [0, 1] has magnitude bits up to those of one. -/
theorem fmag_le_of_unit {v : F32} (h : inRange fZero fOne v) : fmag v ≤ fmag fOne :=
  fmag_le_of_fle (fle_iff.1 h.1).2.2 h.2

theorem clamp01_inRange (v : F32) : inRange fZero fOne (clamp01 v) := clampf_inRange (by decide)

/-- Rounding half away from zero stays at or below a whole number. -/
theorem rhaz_le {v : F32} {n : Nat} (h : funits v ≤ n * 2 ^ 149) : (rhaz v).toNat ≤ n := by
  have hm : (2 * funits v + 2 ^ 149) / 2 ^ 150 ≤ n := by omega
  unfold rhaz
  split
  · exact Nat.zero_le n
  · simp only
    split <;> omega

/-- A knob of any pattern selects one of the 128 entries (R196). -/
theorem knobIndex_le (knob : F32) : knobIndex knob ≤ 127 := by
  have hmag : fmag (fmul (clamp01 knob) f127) ≤ fmag f127 :=
    fmag_fmul_le_right (fmag_le_of_unit (clamp01_inRange knob)) (by decide)
  exact rhaz_le ((funits_le_of_fmag_le hmag).trans (by decide))

/-! ## The time table -/

variable {cfg : Params}

theorem timeTable_length (cfg : Params) : cfg.timeTable.length = 128 := by
  have h := cfg.timeTable_ok
  simp only [timeTableOk, Bool.and_eq_true, decide_eq_true_eq] at h
  exact h.1.1

theorem timeTable_bounds {e : Nat} (he : e ∈ cfg.timeTable) : 1 ≤ e ∧ e ≤ 65535 := by
  have h := cfg.timeTable_ok
  simp only [timeTableOk, Bool.and_eq_true, List.all_eq_true, decide_eq_true_eq] at h
  exact h.1.2 e he

/-- Every entry of the table is a step from 1 on (R191). -/
theorem one_le_timeStep {i : Nat} (h : i ≤ 127) : 1 ≤ (timeStep cfg i).toNat := by
  have hi : i < cfg.timeTable.length := by rw [timeTable_length]; omega
  have hb := timeTable_bounds (List.getElem_mem hi)
  rw [timeStep, List.getD_eq_getElem _ _ hi, BitVec.toNat_ofNat]
  omega

theorem one_le_stepOfKnob (knob : F32) : 1 ≤ (stepOfKnob cfg knob).toNat := one_le_timeStep (knobIndex_le knob)

end Sys2Proof.Machine
end

section
/-! SUPPORT. The invariant of Sys2Proof/Safety.lean, one part at a time: which commands write the registers it speaks of
and what they make of them; every other command keeps the part by its frame (spec/10_state.md R46 to R68). -/

namespace Sys2Proof.Machine

open Sys2Proof.Laws

variable {cfg : Params} {s t u : State cfg} {i : Instr}

/-! ## Rates (R46, R47) -/

theorem ctrlDivOf_bounds {fs : Nat} (h : fs ≤ cfg.fsMax) : 1 ≤ ctrlDivOf cfg fs ∧ ctrlDivOf cfg fs < 2 ^ 32 := by
  have hrates := cfg.rates
  have hdiv : fs / cfg.controlRateHz ≤ fs := Nat.div_le_self ..
  unfold ctrlDivOf
  omega

/-- Rate registers that a legal rate `fs` makes, with a count below the divider. -/
theorem rateInv_of_rate {fs : Nat} (hmin : cfg.fsMin ≤ fs) (hmax : fs ≤ cfg.fsMax) (hfs : s.fs = BitVec.ofNat 32 fs)
    (hfsf : s.fsf = u2f fs) (hdiv : s.ctrlDiv = BitVec.ofNat 32 (ctrlDivOf cfg fs))
    (hcnt : s.ctrlCnt.toNat < ctrlDivOf cfg fs) : s.RateInv := by
  have hrates := cfg.rates
  have hnat : s.fs.toNat = fs := by rw [hfs, BitVec.toNat_ofNat]; omega
  have hdivNat : s.ctrlDiv.toNat = ctrlDivOf cfg fs := by
    rw [hdiv, BitVec.toNat_ofNat, Nat.mod_eq_of_lt (ctrlDivOf_bounds hmax).2]
  unfold State.RateInv
  rw [hnat, hdivNat]
  exact ⟨hmin, hmax, hfsf, rfl, hcnt⟩

theorem clampu_inRange {hz lo hi : Nat} (h : lo ≤ hi) : lo ≤ clampu hz lo hi ∧ clampu hz lo hi ≤ hi := by
  unfold clampu
  omega

theorem rate_inRange (cfg : Params) (hz : Nat) :
    cfg.fsMin ≤ clampu hz cfg.fsMin cfg.fsMax ∧ clampu hz cfg.fsMin cfg.fsMax ≤ cfg.fsMax := by
  have hrates := cfg.rates
  exact clampu_inRange (by omega)

theorem rateInv_setRate (s : State cfg) (hz : Nat) : (setRate hz s).RateInv := by
  obtain ⟨hmin, hmax⟩ := rate_inRange cfg hz
  refine rateInv_of_rate hmin hmax rfl rfl rfl ?_
  have hdiv := (ctrlDivOf_bounds hmax).1
  simp only [setRate]
  split
  · exact hdiv
  · omega

theorem rateInv_resetState {fs : Nat} (hmin : cfg.fsMin ≤ fs) (hmax : fs ≤ cfg.fsMax) (s : State cfg) :
    (resetState fs s).RateInv :=
  rateInv_of_rate hmin hmax rfl rfl rfl (ctrlDivOf_bounds hmax).1

theorem Effect.rateInv (h : Effect s i u) (hs : s.RateInv) : u.RateInv := by
  cases h
  case reset => exact rateInv_resetState hs.1 hs.2.1 s
  case setfs hz => exact rateInv_setRate s _
  case cstep =>
    obtain ⟨hmin, hmax, hfsf, hdiv, hcnt⟩ := hs
    refine ⟨hmin, hmax, hfsf, hdiv, ?_⟩
    simp only [setX_ctrlCnt, setX_ctrlDiv, ctrlTick, decide_eq_true_eq]
    split
    · exact hcnt.trans_le' (Nat.zero_le _)
    · have hdivlt := s.ctrlDiv.isLt
      rw [BitVec.toNat_add, BitVec.toNat_ofNat]
      omega
  case wrreg ht => cases regWritten_of_regWrite ht <;> exact hs
  all_goals exact hs

/-! ## Coefficients (R48) -/

theorem kMax_pos (cfg : Params) : flt fZero cfg.kMax = true := by
  have h := cfg.ok
  simp only [RawParams.check, RawParams.boundsOk, Bool.and_eq_true] at h
  obtain ⟨⟨⟨⟨-, -⟩, hb⟩, -⟩, -⟩ := h
  simp only [hb]

theorem forder_fneg (a : F32) : forder (fneg a) = -forder a := by
  cases h : fsign a <;> simp [forder, h]

/-- Zero is in the range of a coefficient, so the range is not empty. -/
theorem zero_inRange_kMax (cfg : Params) : inRange (fneg cfg.kMax) cfg.kMax fZero := by
  obtain ⟨-, hn, hpos⟩ := flt_iff.1 (kMax_pos cfg)
  have hzero : forder fZero = 0 := by decide
  rw [hzero] at hpos
  exact ⟨fle_iff.2 ⟨by rwa [isNaN_fneg], by decide, by rw [forder_fneg, hzero]; omega⟩,
    fle_iff.2 ⟨by decide, hn, by rw [hzero]; exact hpos.le⟩⟩

theorem coefInv_resetState (fs : Nat) (s : State cfg) : (resetState fs s).CoefInv := by
  intro j
  simp only [resetState, vector_replicate_getElem]
  exact zero_inRange_kMax cfg

theorem Effect.coefInv (h : Effect s i u) (hs : s.CoefInv) : u.CoefInv := by
  cases h
  case reset => exact coefInv_resetState _ s
  case setk =>
    have hzero := zero_inRange_kMax cfg
    exact vector_set_forall (p := inRange (fneg cfg.kMax) cfg.kMax) hs
      (clampf_inRange (fle_trans hzero.1 hzero.2))
  case wrreg ht => cases regWritten_of_regWrite ht <;> exact hs
  all_goals exact hs

/-! ## Delay lines (R51) -/

theorem lineInv_resetState (fs : Nat) (s : State cfg) : (resetState fs s).LineInv := by
  intro d
  simp only [resetState, vector_replicate_getElem]
  exact ⟨cap_pos d, Memory.wf_nil _⟩

theorem RegWritten.lineInv (h : RegWritten s t) (hs : s.LineInv) : t.LineInv := by
  cases h
  case cursor d v => exact lineInv_setCursor s d v hs
  all_goals exact hs

theorem Effect.lineInv (h : Effect s i u) (hs : s.LineInv) : u.LineInv := by
  cases h
  case reset => exact lineInv_resetState _ s
  case wrreg ht => exact (regWritten_of_regWrite ht).lineInv hs
  case dlRot d _ => exact lineInv_rotate s d hs
  case dlWr => exact lineInv_writeOffset s _ _ _ hs
  case dlAp => exact lineInv_allpass s _ _ _ _ _ hs
  case dlClr => exact lineInv_clearLine s _ hs
  case rvProc rs1 _ _ _ _ hstep =>
    have hlines := (reverbStep_frame s (getX s rs1)).lines hs
    rw [hstep] at hlines
    exact hlines
  case rvRst => exact lineInv_clearLine s cfg.line0 hs
  all_goals exact hs

/-! ## Envelopes (R63, R64) -/

theorem envInv_iff : s.EnvInv ↔ ∀ e : Fin cfg.nenv, s.env[e].InBounds := Iff.rfl

theorem envInv_setEnv {e : Fin cfg.nenv} {v : Envelope} (hs : s.EnvInv) (hv : s.env[e].InBounds → v.InBounds) :
    (setEnv s e v).EnvInv :=
  envInv_iff.2 (vector_set_forall (p := Envelope.InBounds) (envInv_iff.1 hs) (hv (envInv_iff.1 hs e)))

theorem switchMode_inBounds {v : Envelope} (h : v.InBounds) (m : EnvMode) : (switchMode v m).InBounds := by
  unfold switchMode
  split
  · exact h
  · exact ⟨Nat.zero_le _, h.2⟩

theorem setStep_inBounds {v : Envelope} (h : v.InBounds) (sel : TimeSel) {step : BitVec 16} (hstep : 1 ≤ step.toNat) :
    (setStep v sel step).InBounds := by
  obtain ⟨hl, ha, hd, hr⟩ := h
  cases sel
  · exact ⟨hl, hstep, hd, hr⟩
  · exact ⟨hl, ha, hstep, hr⟩
  · exact ⟨hl, ha, hd, hstep⟩

/-- A level in 0..65535 is the same number signed and unsigned. -/
theorem level_toInt {l : Word} (h : l.toNat ≤ 65535) : l.toInt = l.toNat := BitVec.toInt_eq_toNat_of_lt (by omega)

/-- Storing a number of 0..65535 as a level. -/
theorem level_ofInt_le {l : Int} (h0 : 0 ≤ l) (h : l ≤ 65535) : (BitVec.ofInt 32 l).toNat ≤ 65535 := by
  rw [BitVec.toNat_ofInt]
  omega

theorem sustain_le (sus : BitVec 16) : (sus.setWidth 32).toNat ≤ 65535 := by
  rw [BitVec.toNat_setWidth]
  have := sus.isLt
  omega

/-- The action of each state saturates at the bounds of the level (spec/43_envelope.md R197, R19). -/
theorem tickAction_inBounds {v : Envelope} (h : v.InBounds) : (tickAction v).InBounds := by
  obtain ⟨hl, hsteps⟩ := h
  have hint := level_toInt hl
  unfold tickAction
  split
  · dsimp only
    split
    · exact ⟨Nat.le_refl _, hsteps⟩
    · exact ⟨level_ofInt_le (by omega) (by omega), hsteps⟩
  · dsimp only
    split
    · exact ⟨sustain_le _, hsteps⟩
    · exact ⟨level_ofInt_le (by omega) (by omega), hsteps⟩
  · exact ⟨sustain_le _, hsteps⟩
  · dsimp only
    split
    · exact ⟨Nat.zero_le _, hsteps⟩
    · exact ⟨level_ofInt_le (by omega) (by omega), hsteps⟩
  · exact ⟨hl, hsteps⟩

theorem envelopeTick_inBounds {v : Envelope} (h : v.InBounds) (gate : Bool) : (envelopeTick v gate).InBounds :=
  tickAction_inBounds (v := { v with gate := gate, st := edgeState v gate }) h

theorem resetEnvelope_inBounds (cfg : Params) : (resetEnvelope cfg).InBounds :=
  have hstep : 1 ≤ (timeStep cfg 0).toNat := one_le_timeStep (by decide)
  ⟨Nat.zero_le _, hstep, hstep, hstep⟩

theorem envInv_resetState (fs : Nat) (s : State cfg) : (resetState fs s).EnvInv := by
  rw [envInv_iff]
  intro e
  simp only [resetState, vector_replicate_getElem]
  exact resetEnvelope_inBounds cfg

theorem RegWritten.envInv (h : RegWritten s t) (hs : s.EnvInv) : t.EnvInv := by
  cases h
  case envelope e v hv => exact envInv_setEnv hs hv
  all_goals exact hs

theorem Effect.envInv (h : Effect s i u) (hs : s.EnvInv) : u.EnvInv := by
  cases h
  case reset => exact envInv_resetState _ s
  case wrreg ht => exact (regWritten_of_regWrite ht).envInv hs
  case envMode => exact envInv_setEnv hs fun hv => switchMode_inBounds hv _
  case envTime => exact envInv_setEnv hs fun hv => setStep_inBounds hv _ (one_le_stepOfKnob _)
  case envSus => exact envInv_setEnv hs id
  case envTick => exact envInv_setEnv hs fun hv => envelopeTick_inBounds hv _
  case envRst => exact envInv_setEnv hs fun hv => ⟨Nat.zero_le _, hv.2⟩
  all_goals exact hs

/-! ## The reverberator (R67, R68) -/

theorem kfbMax_nonneg (cfg : Params) : fle fZero cfg.kfbMax = true := by
  have h := cfg.ok
  simp only [RawParams.check, RawParams.boundsOk, belowOne, Bool.and_eq_true] at h
  obtain ⟨⟨⟨⟨-, -⟩, hb⟩, -⟩, -⟩ := h
  simp only [hb]

theorem zero_inRange_kfbMax (cfg : Params) : inRange fZero cfg.kfbMax fZero := ⟨by decide, kfbMax_nonneg cfg⟩

theorem reverbInv_setRate (hz : Nat) (hs : s.ReverbInv) : (setRate hz s).ReverbInv := by
  have hmax := (rate_inRange cfg hz).2
  have hrates := cfg.rates
  have hnat : (setRate hz s).fs.toNat = clampu hz cfg.fsMin cfg.fsMax := by
    simp only [setRate, BitVec.toNat_ofNat]
    omega
  obtain ⟨-, -, hknobs⟩ := hs
  unfold State.ReverbInv
  rw [hnat]
  exact ⟨rfl, rfl, hknobs⟩

theorem reverbInv_applyParam (sel : ParamSel) (v : F32) (hs : s.ReverbInv) :
    ({ s with rv := applyParam s.rv sel v } : State cfg).ReverbInv := by
  have hunit := clamp01_inRange v
  obtain ⟨hlay, hetime, hkap, hkcomb, htone, hklow, hkhigh, hkpass, hsize, hkrt, hkfb, hkdry, hkrev, hkecho⟩ := hs
  cases sel
  case tone => exact ⟨hlay, hetime, hkap, hkcomb, hunit, rfl, rfl, rfl, hsize, hkrt, hkfb, hkdry, hkrev, hkecho⟩
  case size =>
    exact ⟨hlay, hetime, hkap, hkcomb, htone, hklow, hkhigh, hkpass, hunit, rfl, hkfb, hkdry, hkrev, hkecho⟩
  case feedback =>
    exact ⟨hlay, hetime, hkap, hkcomb, htone, hklow, hkhigh, hkpass, hsize, hkrt, clampf_inRange (kfbMax_nonneg cfg),
      hkdry, hkrev, hkecho⟩
  case dry => exact ⟨hlay, hetime, hkap, hkcomb, htone, hklow, hkhigh, hkpass, hsize, hkrt, hkfb, hunit, hkrev, hkecho⟩
  case reverb =>
    exact ⟨hlay, hetime, hkap, hkcomb, htone, hklow, hkhigh, hkpass, hsize, hkrt, hkfb, hkdry, hunit, hkecho⟩
  case echo => exact ⟨hlay, hetime, hkap, hkcomb, htone, hklow, hkhigh, hkpass, hsize, hkrt, hkfb, hkdry, hkrev, hunit⟩

/-- The registers that reset gives the reverberator fit its knobs where the size law gives the listed RV.KRT
(notes/assumptions/1.md); at the defaults it does. -/
theorem reverbInv_resetState (hkrt : sizeKrt cfg fHalf = 0x3F100000#32) {fs : Nat} (hmax : fs ≤ cfg.fsMax)
    (s : State cfg) : (resetState fs s).ReverbInv := by
  have hrates := cfg.rates
  have hnat : (resetState fs s).fs.toNat = fs := by
    simp only [resetState, BitVec.toNat_ofNat]
    omega
  obtain ⟨hzero, hhalf, hone⟩ :
      inRange fZero fOne fZero ∧ inRange fZero fOne fHalf ∧ inRange fZero fOne fOne := by decide
  obtain ⟨hklow, hkhigh, hkpass⟩ :
      fZero = toneKlow fHalf ∧ fZero = toneKhigh fHalf ∧ fOne = toneKpass fHalf := by decide
  unfold State.ReverbInv
  rw [hnat]
  exact ⟨rfl, rfl, rfl, rfl, hhalf, hklow, hkhigh, hkpass, hhalf, hkrt.symm, zero_inRange_kfbMax cfg, hone,
    hzero, hzero⟩

theorem Effect.reverbInv (hkrt : sizeKrt cfg fHalf = 0x3F100000#32) (h : Effect s i u) (hrate : s.RateInv)
    (hs : s.ReverbInv) : u.ReverbInv := by
  cases h
  case reset => exact reverbInv_resetState hkrt hrate.2.1 s
  case setfs => exact reverbInv_setRate _ hs
  case rvChar =>
    obtain ⟨-, -, -, -, hknobs⟩ := hs
    exact ⟨rfl, rfl, rfl, rfl, hknobs⟩
  case rvParam => exact reverbInv_applyParam _ _ hs
  case rvEtime => exact ⟨hs.1, rfl, hs.2.2⟩
  case wrreg ht => cases regWritten_of_regWrite ht <;> exact hs
  all_goals exact hs

/-! ## The whole invariant -/

theorem inv_resetState (hkrt : sizeKrt cfg fHalf = 0x3F100000#32) {fs : Nat} (hmin : cfg.fsMin ≤ fs)
    (hmax : fs ≤ cfg.fsMax) (s : State cfg) : (resetState fs s).Inv :=
  ⟨rateInv_resetState hmin hmax s, coefInv_resetState fs s, lineInv_resetState fs s, envInv_resetState fs s,
    reverbInv_resetState hkrt hmax s⟩

/-- After power-on every register but the mailbox and the host's side is as RESET makes it (R74). -/
theorem inv_resetAt (hkrt : sizeKrt cfg fHalf = 0x3F100000#32) : (State.resetAt cfg).Inv :=
  inv_resetState hkrt cfg.rates.2.2.1 cfg.rates.2.2.2.1 (State.resetAt cfg)

theorem EndsIn.inv (hkrt : sizeKrt cfg fHalf = 0x3F100000#32) (h : EndsIn i s t) (hs : s.Inv) : t.Inv := by
  rcases h with ⟨u, hu, rfl⟩ | rfl
  · obtain ⟨hrate, hcoef, hline, henv, hreverb⟩ := hs
    have hreverb' := hu.reverbInv hkrt hrate hreverb
    exact ⟨hu.rateInv hrate, hu.coefInv hcoef, hu.lineInv hline, hu.envInv henv, hreverb'⟩
  · exact hs

theorem inv_uiDrain (p : Fin Config.NP) (hs : s.Inv) : (uiDrain s p).Inv := by
  rw [uiDrain_eq]
  split <;> exact hs

theorem stepAt_inv (hkrt : sizeKrt cfg fHalf = 0x3F100000#32) (hs : s.Inv) (h : stepAt s = .next t) : t.Inv := by
  unfold stepAt at h
  split at h
  · cases h; exact hs
  · unfold stepCommandAt at h
    split at h
    · exact (execAt_endsIn h).inv hkrt hs
    · cases h; exact hs
  · cases h; exact hs
  · cases h; exact inv_uiDrain _ hs

/-- At the defaults the size law gives the listed RV.KRT of 0.5625 (R67). -/
theorem sizeKrt_default : sizeKrt Config.default fHalf = 0x3F100000#32 := by decide

end Sys2Proof.Machine

namespace Sys2Proof.Proofs

open Sys2Proof.Machine

/-- Settles O10: each part of the invariant through every command, the exception and the UI writer's actions. -/
theorem everyStepKeepsTheInvariant : Obligations.EveryStepKeepsTheInvariant := fun _ _ hs h =>
  stepAt_inv sizeKrt_default hs h

/-- Settles O11: reset makes each part of the invariant hold. -/
theorem resetStateHasTheInvariant : Obligations.ResetStateHasTheInvariant := inv_resetAt sizeKrt_default

end Sys2Proof.Proofs
end

section
/-! SUPPORT. The power-on state, bank by bank (spec/10_state.md R74). -/

namespace Sys2Proof.Machine

/-- FSF at FS_DEFAULT. -/
theorem u2f_fsDefault : u2f 48000 = 0x473B8000#32 := by decide

theorem reset_dl (d : Fin Config.NDL) : State.reset.dl[d] = { dp := 0#32, buf := [] } := vector_replicate_getElem _ d

theorem reset_op (u : Fin Config.NOP) : State.reset.op[u] = resetOnePole Config.default 0x473B8000#32 u := by
  rw [← u2f_fsDefault]
  exact vector_ofFn_getElem _ u

theorem reset_bq (u : Fin Config.NBQ) : State.reset.bq[u] = resetBiquad Config.default 0x473B8000#32 := by
  rw [← u2f_fsDefault]
  exact vector_replicate_getElem _ u

theorem reset_lm (m : Fin Config.NLM) : State.reset.lm[m] = resetMeter Config.default 0x473B8000#32 := by
  rw [← u2f_fsDefault]
  exact vector_replicate_getElem _ m

theorem reset_env (e : Fin Config.NENV) : State.reset.env[e] = resetEnvelope Config.default :=
  vector_replicate_getElem _ e

theorem reset_memRead (d : Fin Config.NDL) (a : Nat) : memRead State.reset d a = 0x00000000#32 := by
  have hbuf : State.reset.dl[d].buf = [] := congrArg DelayLine.buf (reset_dl d)
  exact congrArg (Memory.read · a) hbuf

/-- The reverberator's units at preset 0, the others at 1000.0 Hz. -/
theorem reset_cutoffs : ((List.finRange Config.NOP).map fun u => resetCutoff Config.default u) =
    [0x43960000#32, 0x457A0000#32, 0x45BB8000#32, 0x45BB8000#32, 0x453B8000#32, 0x447A0000#32, 0x447A0000#32,
      0x447A0000#32] := by decide

end Sys2Proof.Machine

namespace Sys2Proof.Proofs

open Sys2Proof.Machine

/-- Settles O23: each bank by its reset unit, the layout and the echo time by evaluating their rules at 48000 Hz. -/
theorem powerOnStateHasTheTabledValues : Obligations.PowerOnStateHasTheTabledValues := by
  have hlayout : (layoutOf Config.default 0 48000).toList =
      [0#32, 152#32, 266#32, 650#32, 932#32, 3592#32, 6592#32, 30593#32] := by decide
  have hetime : echoTimeOf Config.default 0x02EE0000#32 48000 = 0x02EE0000#32 := by decide
  refine ⟨fun r => vector_replicate_getElem _ r, rfl, rfl, rfl, rfl, u2f_fsDefault, rfl, rfl,
    fun k => vector_replicate_getElem _ k, fun d a => ⟨reset_memRead d a, by rw [reset_dl]⟩, ?cutoffs,
    fun u => ?onePole, fun u => (reset_bq u).trans rfl, fun e => (reset_env e).trans rfl,
    fun m => (reset_lm m).trans rfl, rfl, rfl, rfl, rfl, rfl, rfl, rfl, rfl, rfl, rfl, rfl, rfl, rfl, rfl, hetime,
    rfl, rfl, hlayout, fun p => ⟨vector_replicate_getElem _ p, vector_replicate_getElem _ p⟩, rfl⟩
  case cutoffs =>
    rw [← reset_cutoffs]
    exact List.map_congr_left fun u _ => congrArg OnePole.fc (reset_op u)
  case onePole =>
    rw [reset_op]
    exact ⟨rfl, rfl⟩

end Sys2Proof.Proofs
end

section
/-! SUPPORT. The register space: which register each address of the map names (spec/10_state.md R71, R72), and what
RDREG and WRREG do at a mapped address (spec/40_system.md R126, R127). -/

namespace Sys2Proof.Machine

variable {cfg : Params}

/-! ## Addresses -/

section

variable {b u f : Nat}

theorem regAddr_toNat (hb : b < 16) (hu : u < 256) (hf : f < 16) :
    (regAddr b u f).toNat = b * 4096 + u * 16 + f := by
  rw [BitVec.toNat_ofNat]
  omega

theorem addrBlock_regAddr (hb : b < 16) (hu : u < 256) (hf : f < 16) : addrBlock (regAddr b u f) = b := by
  rw [addrBlock, regAddr_toNat hb hu hf]
  omega

theorem addrUnit_regAddr (hb : b < 16) (hu : u < 256) (hf : f < 16) : addrUnit (regAddr b u f) = u := by
  rw [addrUnit, regAddr_toNat hb hu hf]
  omega

theorem addrField_regAddr (hb : b < 16) (hu : u < 256) (hf : f < 16) : addrField (regAddr b u f) = f := by
  rw [addrField, regAddr_toNat hb hu hf]
  omega

end

/-! ## The blocks of the map -/

section

variable {f : Nat} (hf : f < 16)
include hf

theorem regAt_core : regAt cfg (regAddr 0 0 f) = coreField f := by
  simp only [regAt, addrBlock_regAddr, addrUnit_regAddr, addrField_regAddr, hf, Nat.zero_lt_succ, if_true]

theorem regAt_dl (d : Fin cfg.ndl) : regAt cfg (regAddr 1 d f) = dlField d f := by
  have hd : d.val < 256 := d.isLt.trans_le cfg.counts.2.1
  have hb : 1 < 16 := by decide
  simp only [regAt, addrBlock_regAddr hb hd hf, addrUnit_regAddr hb hd hf, addrField_regAddr hb hd hf, d.isLt, dif_pos]

theorem regAt_op (u : Fin cfg.nop) : regAt cfg (regAddr 2 u f) = opField u f := by
  have hu : u.val < 256 := u.isLt.trans_le cfg.counts.2.2.2.1
  have hb : 2 < 16 := by decide
  simp only [regAt, addrBlock_regAddr hb hu hf, addrUnit_regAddr hb hu hf, addrField_regAddr hb hu hf, u.isLt, dif_pos]

theorem regAt_bq (u : Fin cfg.nbq) : regAt cfg (regAddr 3 u f) = bqField u f := by
  have hu : u.val < 256 := by
    have hcounts := cfg.counts
    omega
  have hb : 3 < 16 := by decide
  simp only [regAt, addrBlock_regAddr hb hu hf, addrUnit_regAddr hb hu hf, addrField_regAddr hb hu hf, u.isLt, dif_pos]

theorem regAt_env (e : Fin cfg.nenv) : regAt cfg (regAddr 4 e f) = envField e f := by
  have he : e.val < 256 := by
    have hcounts := cfg.counts
    omega
  have hb : 4 < 16 := by decide
  simp only [regAt, addrBlock_regAddr hb he hf, addrUnit_regAddr hb he hf, addrField_regAddr hb he hf, e.isLt, dif_pos]

theorem regAt_lm (m : Fin cfg.nlm) : regAt cfg (regAddr 5 m f) = lmField m f := by
  have hm : m.val < 256 := by
    have hcounts := cfg.counts
    omega
  have hb : 5 < 16 := by decide
  simp only [regAt, addrBlock_regAddr hb hm hf, addrUnit_regAddr hb hm hf, addrField_regAddr hb hm hf, m.isLt, dif_pos]

theorem regAt_rv : regAt cfg (regAddr 6 0 f) = rvField f := by
  have hb : 6 < 16 := by decide
  have hu : 0 < 256 := by decide
  simp only [regAt, addrBlock_regAddr hb hu hf, addrUnit_regAddr hb hu hf, addrField_regAddr hb hu hf, if_true]

theorem regAt_rvBoundary : regAt cfg (regAddr 6 1 f) = rvBoundaryField f := by
  have hb : 6 < 16 := by decide
  have hu : 1 < 256 := by decide
  simp only [regAt, addrBlock_regAddr hb hu hf, addrUnit_regAddr hb hu hf, addrField_regAddr hb hu hf, if_true,
    one_ne_zero, if_false]

end

theorem rvBoundaryField_s (i : Fin 8) : rvBoundaryField (cfg := cfg) i = some (.rvS i) := dif_pos i.isLt

theorem regAt_k (i : KReg) : regAt cfg (regAddr 7 0 i) = some (.k i) := by
  have hb : 7 < 16 := by decide
  have hu : 0 < 256 := by decide
  simp only [regAt, addrBlock_regAddr hb hu i.isLt, addrUnit_regAddr hb hu i.isLt, addrField_regAddr hb hu i.isLt,
    i.isLt, and_self, dif_pos]

/-- The mailbox and the time table run over several units of sixteen registers. -/
theorem regAt_p (i : Fin Config.NP) : regAt cfg (regAddr 8 (i.val / 16) (i.val % 16)) = some (.p i) := by
  have hb : 8 < 16 := by decide
  have hi : i.val < 32 := i.isLt
  have hu : i.val / 16 < 256 := by omega
  have hf : i.val % 16 < 16 := by omega
  simp only [regAt, addrBlock_regAddr hb hu hf, addrUnit_regAddr hb hu hf, addrField_regAddr hb hu hf, Nat.div_add_mod,
    i.isLt, dif_pos]

theorem regAt_tt (i : Fin 128) : regAt cfg (regAddr 9 (i.val / 16) (i.val % 16)) = some (.tt i) := by
  have hb : 9 < 16 := by decide
  have hu : i.val / 16 < 256 := by omega
  have hf : i.val % 16 < 16 := by omega
  simp only [regAt, addrBlock_regAddr hb hu hf, addrUnit_regAddr hb hu hf, addrField_regAddr hb hu hf, Nat.div_add_mod,
    i.isLt, dif_pos]

/-! ## Reading -/

/-- RDREG at an address that names `r` writes the value of `r` to its destination and nothing else (R126). -/
theorem rdreg_mapped {s : State} {rd : Reg} {a : BitVec 16} {field : Option (RegName Config.default)}
    {r : RegName Config.default} {v : Word} (ha : regAt Config.default a = field) (hr : field = some r)
    (hv : regRead s r = v) : exec (.rdreg rd a) s = .next { s with x := s.x.set rd v, pc := s.pc + 1 } := by
  subst hv
  change execRdreg rd a s = _
  rw [execRdreg, ha, hr]
  rfl

theorem statusWord_eq (f : Status) :
    statusWord f = (if f.ill then 1#32 else 0#32) + (if f.ctick then 2#32 else 0#32) := by
  obtain ⟨ill, ctick⟩ := f
  cases ill <;> cases ctick <;> rfl

theorem timeStep_setWidth (cfg : Params) (i : Fin 128) :
    (timeStep cfg i).setWidth 32 = BitVec.ofNat 32 (cfg.timeTable.getD i 0) := by
  have hi : i.val < cfg.timeTable.length := by rw [timeTable_length]; exact i.isLt
  have hbound := timeTable_bounds (List.getElem_mem hi)
  apply BitVec.eq_of_toNat_eq
  rw [timeStep, List.getD_eq_getElem _ _ hi, BitVec.toNat_setWidth, BitVec.toNat_ofNat, BitVec.toNat_ofNat]
  omega

theorem default_dlLog2 : ∀ d : Fin Config.NDL,
    BitVec.ofNat 32 (Config.default.dlLog2.getD d.val 0) = if d = 0 then 17#32 else 16#32 := by decide

/-! ## Writing -/

/-- WRREG at an address that names `r` answers what the write of `r` makes (R127). -/
theorem wrreg_mapped {s t : State} {rs1 : Reg} {a : BitVec 16} {field : Option (RegName Config.default)}
    {r : RegName Config.default} (ha : regAt Config.default a = field) (hr : field = some r)
    (hw : regWrite s r s.x[rs1] = some t) : exec (.wrreg rs1 a) s = .next { t with pc := s.pc + 1 } := by
  have hhost := (regWritten_of_regWrite hw).hostSide
  simp only [State.hostSide, Prod.mk.injEq] at hhost
  change execWrreg rs1 a s = _
  rw [execWrreg, ha, hr]
  simp only [getX, hw, complete, advance, hhost.2.2.2]

/-- A value that the register does not take is an illegal command (R73). -/
theorem wrreg_refused {s : State} {rs1 : Reg} {a : BitVec 16} {field : Option (RegName Config.default)}
    {r : RegName Config.default} (ha : regAt Config.default a = field) (hr : field = some r)
    (hw : regWrite s r s.x[rs1] = none) : exec (.wrreg rs1 a) s = illegal (.wrreg rs1 a) s := by
  change execWrreg rs1 a s = _
  rw [execWrreg, ha, hr]
  simp only [getX, hw]

/-- The legal cursor is the remainder by the capacity (R73). -/
theorem and_capMask_eq (d : Fin cfg.ndl) (v : Word) : v &&& capMask cfg d = BitVec.ofNat 32 (v.toNat % cfg.cap d) := by
  apply BitVec.eq_of_toNat_eq
  have hmod := Nat.mod_le v.toNat (cfg.cap d)
  have hlt := v.isLt
  rw [and_capMask_toNat, BitVec.toNat_ofNat]
  omega

/-- No envelope state has a code above 4 (R62). -/
theorem envStateOf_eq_none {c : Nat} (h : 4 < c) : envStateOf c = none := by
  obtain ⟨n, rfl⟩ := Nat.exists_eq_add_of_le' h
  rfl

theorem getLsbD_zero_eq (v : Word) : v.getLsbD 0 = decide (v.toNat % 2 = 1) := by
  rw [BitVec.getLsbD, Nat.testBit_zero]

end Sys2Proof.Machine

namespace Sys2Proof.Proofs

open Sys2Proof.Machine

/-- Settles O29: the map block by block, and the word of each register that is stored as a flag or a code. -/
theorem registerMapReadsTheNamedRegister : Obligations.RegisterMapReadsTheNamedRegister := by
  intro s rd reads
  have core : ∀ {f : Nat} {r v}, f < 16 → coreField f = some r → regRead s r = v → reads 0 0 f v :=
    fun hf hr hv => rdreg_mapped (regAt_core hf) hr hv
  have rv : ∀ {f : Nat} {r v}, f < 16 → rvField f = some r → regRead s r = v → reads 6 0 f v :=
    fun hf hr hv => rdreg_mapped (regAt_rv hf) hr hv
  refine ⟨core (by decide) rfl rfl, core (by decide) rfl rfl, core (by decide) rfl rfl,
    core (by decide) rfl (statusWord_eq _), core (by decide) rfl rfl, core (by decide) rfl rfl,
    core (by decide) rfl rfl, fun d => ?dl, fun u => ?op, fun u => ?bq, fun e => ?env, fun m => ?lm,
    rv (by decide) rfl rfl, rv (by decide) rfl rfl, rv (by decide) rfl rfl, rv (by decide) rfl rfl,
    rv (by decide) rfl rfl, rv (by decide) rfl rfl, rv (by decide) rfl rfl, rv (by decide) rfl rfl,
    rv (by decide) rfl rfl, rv (by decide) rfl rfl, rv (by decide) rfl rfl, rv (by decide) rfl rfl,
    rv (by decide) rfl rfl, rv (by decide) rfl rfl, rv (by decide) rfl rfl,
    fun r => rdreg_mapped (regAt_rvBoundary (r.isLt.trans (by decide))) (rvBoundaryField_s r) rfl,
    rdreg_mapped (regAt_rvBoundary (by decide)) rfl rfl, rdreg_mapped (regAt_rvBoundary (by decide)) rfl rfl,
    fun k => rdreg_mapped (regAt_k k) rfl rfl, fun p => rdreg_mapped (regAt_p p) rfl rfl,
    fun i => rdreg_mapped (regAt_tt i) rfl (timeStep_setWidth _ i)⟩
  case dl =>
    exact ⟨rdreg_mapped (regAt_dl (by decide) d) rfl rfl,
      rdreg_mapped (regAt_dl (by decide) d) rfl (default_dlLog2 d)⟩
  case op =>
    refine ⟨?_, ?_, ?_⟩ <;> exact rdreg_mapped (regAt_op (by decide) u) rfl rfl
  case bq =>
    refine ⟨rdreg_mapped (regAt_bq (by decide) u) rfl ?type, ?_, ?_, ?_, ?_, ?_, ?_, ?_, ?_, ?_, ?_⟩
    case type =>
      simp only [regRead]
      cases s.bq[u].ty <;> rfl
    all_goals exact rdreg_mapped (regAt_bq (by decide) u) rfl rfl
  case env =>
    refine ⟨rdreg_mapped (regAt_env (by decide) e) rfl ?mode, rdreg_mapped (regAt_env (by decide) e) rfl ?st,
      ?_, ?_, ?_, ?_, ?_, ?_⟩
    case mode =>
      simp only [regRead]
      cases s.env[e].mode <;> rfl
    case st =>
      simp only [regRead]
      cases s.env[e].st <;> rfl
    all_goals exact rdreg_mapped (regAt_env (by decide) e) rfl rfl
  case lm =>
    refine ⟨?_, ?_, ?_, rdreg_mapped (regAt_lm (by decide) m) rfl ?presel, ?_, ?_, ?_⟩
    case presel =>
      simp only [regRead]
      cases s.lm[m].presel <;> rfl
    all_goals exact rdreg_mapped (regAt_lm (by decide) m) rfl rfl

/-- Settles O30: the writable registers bank by bank, each with its legal value. -/
theorem registerMapWritesTheLegalisedValue : Obligations.RegisterMapWritesTheLegalisedValue := by
  intro s rs1 v writes
  refine ⟨fun d => ?dl, fun u => ?op, fun u => ?bq, fun e => ?env, fun m => ?lm,
    wrreg_mapped (regAt_rvBoundary (by decide)) rfl rfl, wrreg_mapped (regAt_rvBoundary (by decide)) rfl rfl⟩
  case dl =>
    refine wrreg_mapped (regAt_dl (by decide) d) rfl ?_
    rw [← and_capMask_eq]
    rfl
  case op =>
    refine ⟨?_, ?_⟩ <;> exact wrreg_mapped (regAt_op (by decide) u) rfl rfl
  case bq =>
    refine ⟨?_, ?_, ?_, ?_, ?_, ?_, ?_⟩ <;> exact wrreg_mapped (regAt_bq (by decide) u) rfl rfl
  case env =>
    refine ⟨fun st hst => wrreg_mapped (regAt_env (by decide) e) rfl ?state,
      fun hlarge => (wrreg_refused (regAt_env (by decide) e) rfl ?large).trans (illegal_eq _ s),
      ?_, ?_, ?_, ?_, ?_, wrreg_mapped (regAt_env (by decide) e) rfl ?gate⟩
    case state =>
      have hcode : s.x[rs1].toNat = envStateCode st := by
        rw [show s.x[rs1] = _ from hst]
        cases st <;> rfl
      simp only [regWrite, hcode, envStateOf_code]
      rfl
    case large =>
      have hnone : envStateOf s.x[rs1].toNat = none := envStateOf_eq_none hlarge
      simp only [regWrite, hnone, Option.map_none]
    case gate =>
      rw [← getLsbD_zero_eq]
      rfl
    all_goals exact wrreg_mapped (regAt_env (by decide) e) rfl rfl
  case lm =>
    refine ⟨?_, ?_, ?_, ?_⟩ <;> exact wrreg_mapped (regAt_lm (by decide) m) rfl rfl

end Sys2Proof.Proofs
end

section
/-! SUPPORT. Sums and products with a zero or a one (spec/00_scope.md R23), and the first sample through a reverberator
whose tone, combs and echo are silent (spec/45_reverberator.md R248 to R253). -/

namespace Sys2Proof.Machine

open Sys2Proof.Laws

/-! ## Zeros and ones -/

section

variable {a b z : F32}

theorem isFinite_of_isZero (h : isZero z = true) : isFinite z = true :=
  isFinite_of_fmag_le (b := fZero) ((of_decide_eq_true h : fmag z = 0).trans_le (Nat.zero_le _)) (by decide)

theorem isZero_of_fmag_le (h : fmag a ≤ fmag z) (hz : isZero z = true) : isZero a = true :=
  decide_eq_true (Nat.le_zero.1 (h.trans_eq (of_decide_eq_true hz)))

theorem fvalue_eq_zero_iff : fvalue a = 0 ↔ isZero a = true := by
  constructor
  · intro h
    by_contra hz
    have hpos := funits_pos (Bool.eq_false_iff.2 hz)
    unfold fvalue at h
    split at h <;> omega
  · intro hz
    have hunits : funits a = 0 := by rw [funits, of_decide_eq_true hz]; rfl
    unfold fvalue
    split <;> omega

theorem natAbs_fvalue (a : F32) : (fvalue a).natAbs = funits a := by
  unfold fvalue
  split <;> omega

/-- A value other than zero has the sign of its pattern. -/
theorem decide_fvalue_neg (h : isZero a = false) : decide (fvalue a < 0) = fsign a := by
  have hpos := funits_pos h
  cases hs : fsign a
  · rw [fvalue_of_noSign hs]
    exact decide_eq_false (by omega)
  · rw [fvalue_of_sign hs]
    exact decide_eq_true (by omega)

theorem fmag_le_infMag (ha : isFinite a = true) : fmag a ≤ infMag := Nat.le_of_lt (of_decide_eq_true ha)

/-- Adding a zero to another number changes nothing, whatever the zero's sign. -/
theorem fadd_zero_right (ha : isFinite a = true) (h0 : isZero a = false) (hz : isZero z = true) : fadd a z = a := by
  have hne : fvalue a ≠ 0 := fun h => by simp [fvalue_eq_zero_iff.1 h] at h0
  have hexact := roundMag_exact Nat.one_pos (fmag_le_infMag ha)
  rw [Nat.mul_one] at hexact
  rw [fadd_finite ha (isFinite_of_isZero hz), fvalue_eq_zero_iff.2 hz, add_zero, if_neg hne, natAbs_fvalue,
    decide_fvalue_neg h0]
  refine eq_of_fsign_fmag (fsign_pack_roundMag ..) ?_
  rw [fmag_pack_roundMag]
  exact hexact

theorem fmag_fadd_zero_right (ha : isFinite a = true) (hz : isZero z = true) : fmag (fadd a z) = fmag a := by
  cases h0 : isZero a
  · rw [fadd_zero_right ha h0 hz]
  · rw [fadd_finite ha (isFinite_of_isZero hz), fvalue_eq_zero_iff.2 hz, fvalue_eq_zero_iff.2 h0, if_pos (add_zero 0),
      fmag_pack_of_lt (by decide), of_decide_eq_true h0]

theorem fadd_comm (ha : isFinite a = true) (hb : isFinite b = true) : fadd a b = fadd b a := by
  rw [fadd_finite ha hb, fadd_finite hb ha, add_comm (fvalue a), Bool.and_comm]

theorem fadd_zero_left (hz : isZero z = true) (ha : isFinite a = true) (h0 : isZero a = false) : fadd z a = a := by
  rw [fadd_comm (isFinite_of_isZero hz) ha, fadd_zero_right ha h0 hz]

theorem fmag_fadd_zero_left (hz : isZero z = true) (ha : isFinite a = true) : fmag (fadd z a) = fmag a := by
  rw [fadd_comm (isFinite_of_isZero hz) ha, fmag_fadd_zero_right ha hz]

theorem isZero_fadd (ha : isZero a = true) (hz : isZero z = true) : isZero (fadd a z) = true :=
  isZero_of_fmag_le (fmag_fadd_zero_right (isFinite_of_isZero ha) hz).le ha

theorem fsub_zero (ha : isFinite a = true) (h0 : isZero a = false) (hz : isZero z = true) : fsub a z = a := by
  rw [fsub_finite ha (isFinite_of_isZero hz), fadd_zero_right ha h0 (by rwa [isZero_fneg])]

theorem fmag_fsub_zero (ha : isFinite a = true) (hz : isZero z = true) : fmag (fsub a z) = fmag a := by
  rw [fsub_finite ha (isFinite_of_isZero hz), fmag_fadd_zero_right ha (by rwa [isZero_fneg])]

theorem fmul_comm (ha : isFinite a = true) (hb : isFinite b = true) : fmul a b = fmul b a := by
  rw [fmul_finite ha hb, fmul_finite hb ha, Nat.mul_comm, bne_comm]

theorem fmag_fmul_le_left (ha : isFinite a = true) (hb : fmag b ≤ fmag fOne) : fmag (fmul a b) ≤ fmag a := by
  rw [fmul_comm ha (isFinite_of_fmag_le hb (by decide))]
  exact fmag_fmul_le_right hb ha

theorem isZero_fmul_left (hz : isZero z = true) (ha : isFinite a = true) : isZero (fmul z a) = true := by
  have hunits : funits z = 0 := by rw [funits, of_decide_eq_true hz]; rfl
  rw [fmul_finite (isFinite_of_isZero hz) ha, isZero, fmag_pack_roundMag, hunits, Nat.zero_mul]
  exact decide_eq_true (Nat.le_zero.1 (roundMag_le (Nat.two_pow_pos 149) (Nat.zero_le _)))

theorem isZero_fmul_right (ha : isFinite a = true) (hz : isZero z = true) : isZero (fmul a z) = true := by
  rw [fmul_comm ha (isFinite_of_isZero hz)]
  exact isZero_fmul_left hz ha

theorem fmul_one (ha : isFinite a = true) : fmul a fOne = a := by
  have hsign : fsign fOne = false := by decide
  rw [fmul_finite ha (by decide), funits_fOne]
  refine eq_of_fsign_fmag ?_ ?_
  · rw [fsign_pack_roundMag, hsign, Bool.bne_false]
  · rw [fmag_pack_roundMag]
    exact roundMag_exact (Nat.two_pow_pos 149) (fmag_le_infMag ha)

/-- A sum whose exact value is within a number's magnitude rounds within it. -/
theorem fmag_fadd_le {v : F32} (ha : isFinite a = true) (hb : isFinite b = true)
    (h : (fvalue a + fvalue b).natAbs ≤ funits v) : fmag (fadd a b) ≤ fmag v := by
  rw [fadd_finite ha hb]
  split
  · rw [fmag_pack_of_lt (by decide)]
    exact Nat.zero_le _
  · rw [fmag_pack_roundMag]
    exact roundMag_le Nat.one_pos (by rwa [Nat.mul_one])

end

/-! ## A one-pole unit on its first sample -/

/-- A number from +0.0 to 1.0. -/
def IsFraction (a : F32) : Prop := fsign a = false ∧ fmag a ≤ fmag fOne

/-- The coefficient of a pole at a legal argument (spec/42_filters.md R162): one less a number in [0, 1]. -/
theorem isFraction_one_sub {p : F32} (h : inRange fZero fOne p) : IsFraction (fsub fOne p) := by
  have hmag := fmag_le_of_unit h
  have hfin : isFinite p = true := isFinite_of_fmag_le hmag (by decide)
  have hunits : funits p ≤ 2 ^ 149 := (funits_le_of_fmag_le hmag).trans_eq funits_fOne
  have hone : fvalue fOne = 2 ^ 149 := by decide
  have hval : 0 ≤ fvalue p := by
    cases hz : isZero p
    · rw [fvalue_of_noSign (fsign_of_positive h.1 hz)]
      exact Int.natCast_nonneg _
    · rw [fvalue_eq_zero_iff.2 hz]
  have habs := natAbs_fvalue p
  have hsum : 0 ≤ fvalue fOne + fvalue (fneg p) ∧ (fvalue fOne + fvalue (fneg p)).natAbs ≤ funits fOne := by
    rw [fvalue_fneg, hone, funits_fOne]
    omega
  have hfneg : isFinite (fneg p) = true := by rwa [isFinite_fneg]
  rw [fsub_finite (by decide) hfin]
  refine ⟨?_, fmag_fadd_le (by decide) hfneg hsum.2⟩
  rw [fadd_finite (by decide) hfneg]
  split
  · exact fsign_pack_of_lt (by decide)
  · rw [fsign_pack_roundMag]
    exact decide_eq_false (not_lt.2 hsum.1)

/-- A unit that no sample has passed, with a coefficient in [0, 1]. -/
def OnePole.Fresh (o : OnePole) : Prop := o.z1 = fZero ∧ IsFraction o.a0

theorem OnePole.Fresh.next_eq {o : OnePole} (h : o.Fresh) (v : F32) :
    onePoleNext o v = fadd fZero (fmul (fsub v fZero) o.a0) := by
  unfold onePoleNext
  rw [h.1]

theorem OnePole.Fresh.next_zero {o : OnePole} (h : o.Fresh) : isZero (onePoleNext o fZero) = true := by
  rw [h.next_eq]
  exact isZero_fadd isZero_fZero (isZero_fmul_left (by decide) (isFinite_of_fmag_le h.2.2 (by decide)))

/-- The first history lies between zero and the sample, so both it and what it leaves of the sample are within the
sample's magnitude. -/
theorem OnePole.Fresh.next_bounds {o : OnePole} (h : o.Fresh) {v : F32} (hv : isFinite v = true)
    (h0 : isZero v = false) :
    fmag (onePoleNext o v) ≤ fmag v ∧ fmag (fsub v (onePoleNext o v)) ≤ fmag v := by
  obtain ⟨hsign, hmag⟩ := h.2
  rw [h.next_eq, fsub_zero hv h0 isZero_fZero]
  have hprod := fmag_fmul_le_left hv hmag
  have hpfin := isFinite_of_fmag_le hprod hv
  have hsum := fmag_fadd_zero_left isZero_fZero hpfin
  refine ⟨hsum.trans_le hprod, ?_⟩
  cases hp : isZero (fmul v o.a0)
  · rw [fadd_zero_left isZero_fZero hpfin hp, fsub_finite hv hpfin]
    refine fmag_fadd_le hv (by rwa [isFinite_fneg]) ?_
    have hsame : fsign (fmul v o.a0) = fsign v := by
      rw [fsign_fmul_finite hv (isFinite_of_fmag_le hmag (by decide)), hsign, Bool.bne_false]
    have hunits := funits_le_of_fmag_le hprod
    rw [fvalue_fneg]
    unfold fvalue
    rw [hsame]
    split <;> omega
  · exact (fmag_fsub_zero hv (isZero_of_fmag_le hsum.le hp)).le

/-! ## Blank delay memory -/

variable {cfg : Params} {s : State cfg}

/-- Line 0 reads as zero at every offset from `n` on. -/
def BlankFrom (s : State cfg) (n : Nat) : Prop :=
  ∀ off, n ≤ off → off < cfg.cap cfg.line0 → readOffset s cfg.line0 off = fZero

theorem BlankFrom.mono {m n : Nat} (h : BlankFrom s m) (hmn : m ≤ n) : BlankFrom s n :=
  fun off hn hcap => h off (hmn.trans hn) hcap

/-- A store leaves the offsets above it blank. -/
theorem BlankFrom.writeOffset {n : Nat} (h : BlankFrom s n) (v : Word) :
    BlankFrom (writeOffset s cfg.line0 n v) (n + 1) := by
  intro off hn hcap
  have hne := (dlIndex_ne s cfg.line0 (show n < off from hn) (by omega)).symm
  rw [readOffset, dlIndex_writeOffset]
  exact (memRead_memWrite_other_cell s cfg.line0 v hne).trans (h off (Nat.le_of_succ_le hn) hcap)

/-- A tap on blank cells reads zero between them too. -/
theorem BlankFrom.isZero_readInterpolated {n a : Nat} (h : BlankFrom s n) (hn : n ≤ a / 4096)
    (hcap : a / 4096 + 1 < cfg.cap cfg.line0) : isZero (readInterpolated s cfg.line0 a) = true := by
  have hfrac : isFinite (frac12 (a % 4096)) = true := by
    have hmod : a % 4096 < 4096 := Nat.mod_lt _ (by decide)
    have hu2f : isFinite (u2f (a % 4096)) = true := by
      refine isFinite_of_fmag_le (b := 0x45800000#32) ?_ (by decide)
      rw [u2f, fmag_pack_roundMag]
      refine roundMag_le Nat.one_pos ?_
      rw [show unitsOfMag (fmag 0x45800000#32) = 4096 * 2 ^ 149 by decide]
      omega
    exact isFinite_of_fmag_le (fmag_fmul_le_left hu2f (by decide)) hu2f
  rw [readInterpolated_eq, h _ hn (by omega), h _ (by omega) hcap]
  exact isZero_fadd isZero_fZero (isZero_fmul_left (by decide) hfrac)

/-! ## The silent stages -/

/-- The regions stand one after the other inside line 0 (R244). -/
def LayoutRises (s : State cfg) : Prop :=
  ∀ r : Fin 7, regionStart s r < s.rv.s[r.succ].toNat ∧ s.rv.s[r.succ].toNat ≤ cfg.cap cfg.line0

/-- An allpass section of a blank region answers within its input's magnitude, and leaves the later regions blank. -/
theorem regionAllpass_blank {r : Fin 7} {g acc : F32} (hlay : LayoutRises s) (h : BlankFrom s (regionStart s r))
    (hg : fmag g ≤ fmag fOne) (hacc : isFinite acc = true) :
    BlankFrom (regionAllpass s r g acc).1 s.rv.s[r.succ].toNat ∧ fmag (regionAllpass s r g acc).2 ≤ fmag acc := by
  obtain ⟨hrise, htop⟩ := hlay r
  refine ⟨(h.writeOffset _).mono hrise, ?_⟩
  have htap : readOffset s cfg.line0 (regionEnd s r) = fZero := by
    unfold regionEnd
    exact h _ (by omega) (by omega)
  have hgfin : isFinite g = true := isFinite_of_fmag_le hg (by decide)
  have hstore : fmag (fsub acc (fmul fZero g)) = fmag acc := fmag_fsub_zero hacc (isZero_fmul_left isZero_fZero hgfin)
  have hfin := isFinite_of_fmag_le hstore.le hacc
  have hprod := fmag_fmul_le_left hfin hg
  rw [regionAllpass, allpass_eq]
  simp only [htap]
  rw [fmag_fadd_zero_right (isFinite_of_fmag_le hprod hfin) isZero_fZero]
  exact hprod.trans_eq hstore

theorem BlankFrom.congr {t : State cfg} {n : Nat} (h : BlankFrom s n) (hdl : t.dl = s.dl) : BlankFrom t n := by
  unfold BlankFrom readOffset memRead dlIndex at *
  rw [hdl]
  exact h

theorem LayoutRises.congr {t : State cfg} (h : LayoutRises s) (hrv : t.rv = s.rv) : LayoutRises t := by
  unfold LayoutRises regionStart at *
  rw [hrv]
  exact h

theorem regionStart_congr {t : State cfg} (hrv : t.rv = s.rv) (r : Fin 7) : regionStart t r = regionStart s r := by
  rw [regionStart, regionStart, hrv]

/-- A state and a sample on the way through the sections that start from `s`: the registers stand, line 0 is blank from
`n` on, and the sample is within the magnitude of `m`. -/
structure Quiet (s : State cfg) (n : Nat) (m : F32) (r : State cfg × F32) : Prop where
  rv : r.1.rv = s.rv
  op : r.1.op = s.op
  blank : BlankFrom r.1 n
  mag : fmag r.2 ≤ fmag m

theorem Quiet.allpass {r : Fin 7} {g m : F32} {p : State cfg × F32} (h : Quiet s (regionStart s r) m p)
    (hlay : LayoutRises s) (hg : fmag g ≤ fmag fOne) (hm : isFinite m = true) :
    Quiet s s.rv.s[r.succ].toNat m (regionAllpass p.1 r g p.2) := by
  obtain ⟨t, acc⟩ := p
  have hrv : t.rv = s.rv := h.rv
  have hblank := h.blank
  rw [← regionStart_congr hrv] at hblank
  obtain ⟨hb, hmag⟩ := regionAllpass_blank (hlay.congr hrv) hblank hg (isFinite_of_fmag_le h.mag hm)
  rw [hrv] at hb
  exact ⟨h.rv, h.op, hb, hmag.trans h.mag⟩

/-- The diffusers on blank regions 0 to 3 (R252). -/
theorem quiet_rvDiffuse {t : F32} (hlay : LayoutRises s) (h : BlankFrom s (regionStart s 0))
    (hkap : fmag s.rv.kap ≤ fmag fOne) (ht : isFinite t = true) :
    Quiet s (regionStart s 4) t (rvDiffuse s t) :=
  have hstart : Quiet s (regionStart s 0) t (s, t) := ⟨rfl, rfl, h, Nat.le_refl _⟩
  have h1 : Quiet s (regionStart s 1) t _ := hstart.allpass hlay hkap ht
  have h2 : Quiet s (regionStart s 2) t _ := h1.allpass hlay hkap ht
  have h3 : Quiet s (regionStart s 3) t _ := h2.allpass hlay hkap ht
  h3.allpass hlay hkap ht

theorem borrowed_ne {u w : Fin 5} (h : u ≠ w) : cfg.borrowed u ≠ cfg.borrowed w :=
  fun he => h (Fin.ext (Fin.mk.inj he))

/-- Advancing one borrowed unit leaves another as it was. -/
theorem setOpZ1_op_of_ne (s : State cfg) {u w : Fin 5} (z : F32) (h : u ≠ w) :
    (setOpZ1 s (cfg.borrowed w) z).op[cfg.borrowed u] = s.op[cfg.borrowed u] :=
  vector_set_of_ne s.op _ (borrowed_ne h)

/-- Two sections side by side on blank regions 4 and 5. -/
theorem combSections_blank {d accL accR : F32} (hlay : LayoutRises s) (h : BlankFrom s (regionStart s 4))
    (hkcomb : fmag s.rv.kcomb ≤ fmag fOne) (hd : isFinite d = true) (hL : fmag accL ≤ fmag d)
    (hR : fmag accR ≤ fmag d) :
    let left := regionAllpass s 4 s.rv.kcomb accL
    let right := regionAllpass left.1 5 s.rv.kcomb accR
    BlankFrom right.1 (regionStart s 6) ∧ fmag left.2 ≤ fmag d ∧ fmag right.2 ≤ fmag d := by
  intro left right
  have hstart : Quiet s (regionStart s 4) d (s, accL) := ⟨rfl, rfl, h, hL⟩
  have hleft : Quiet s (regionStart s 5) d left := hstart.allpass hlay hkcomb hd
  have hmiddle : Quiet s (regionStart s 5) d (left.1, accR) := ⟨hleft.rv, hleft.op, hleft.blank, hR⟩
  have hright : Quiet s (regionStart s 6) d right := hmiddle.allpass hlay hkcomb hd
  exact ⟨hright.blank, hleft.mag, hright.mag⟩

/-- Stage 3 up to its sections: the state after both damping filters, and the two accumulators (R249). -/
def combInputs (s : State cfg) (d : F32) : State cfg × F32 × F32 :=
  let l := lowpass s (cfg.borrowed 2) s.rv.yr
  let r := lowpass l.1 (cfg.borrowed 3) s.rv.yl
  (r.1, fadd d (fmul l.2 s.rv.krt), fadd d (fmul r.2 s.rv.krt))

theorem rvCombs_eq (s : State cfg) (d : F32) :
    rvCombs s d =
      let left := regionAllpass (combInputs s d).1 4 s.rv.kcomb (combInputs s d).2.1
      let right := regionAllpass left.1 5 s.rv.kcomb (combInputs s d).2.2
      { right.1 with rv := { right.1.rv with yl := left.2, yr := right.2 } } := rfl

theorem combInputs_rv (s : State cfg) (d : F32) : (combInputs s d).1.rv = s.rv := rfl

theorem combInputs_dl (s : State cfg) (d : F32) : (combInputs s d).1.dl = s.dl := rfl

/-- With both cross-feed registers at zero the accumulators have the sample's magnitude. -/
theorem combInputs_fmag {d : F32} (hkrt : isFinite s.rv.krt = true) (hyl : s.rv.yl = fZero) (hyr : s.rv.yr = fZero)
    (h2 : s.op[cfg.borrowed 2].Fresh) (h3 : s.op[cfg.borrowed 3].Fresh) (hd : isFinite d = true) :
    fmag (combInputs s d).2.1 = fmag d ∧ fmag (combInputs s d).2.2 = fmag d := by
  simp only [combInputs, lowpass_eq, hyl, hyr]
  rw [setOpZ1_op_of_ne s _ (by decide)]
  exact ⟨fmag_fadd_zero_right hd (isZero_fmul_left h2.next_zero hkrt),
    fmag_fadd_zero_right hd (isZero_fmul_left h3.next_zero hkrt)⟩

/-- The combs on blank regions 4 and 5, both feedback paths silent (R249). -/
theorem rvCombs_blank {d : F32} (hlay : LayoutRises s) (h : BlankFrom s (regionStart s 4))
    (hkcomb : fmag s.rv.kcomb ≤ fmag fOne) (hkrt : isFinite s.rv.krt = true) (hyl : s.rv.yl = fZero)
    (hyr : s.rv.yr = fZero) (h2 : s.op[cfg.borrowed 2].Fresh) (h3 : s.op[cfg.borrowed 3].Fresh)
    (hd : isFinite d = true) :
    BlankFrom (rvCombs s d) (regionStart s 6) ∧ fmag (rvCombs s d).rv.yl ≤ fmag d
      ∧ fmag (rvCombs s d).rv.yr ≤ fmag d := by
  obtain ⟨hL, hR⟩ := combInputs_fmag hkrt hyl hyr h2 h3 hd
  have hrv := combInputs_rv s d
  have hblank := h.congr (combInputs_dl s d)
  rw [← regionStart_congr hrv] at hblank
  rw [← hrv] at hkcomb
  have hsections := combSections_blank (hlay.congr hrv) hblank hkcomb hd hL.le hR.le
  rw [hrv, regionStart_congr hrv] at hsections
  rw [rvCombs_eq]
  exact ⟨hsections.1.congr rfl, hsections.2⟩

/-- Both echo outputs on a blank echo region (R251). -/
theorem isZero_rvEcho (h : BlankFrom s (regionStart s 6))
    (hcap : regionStart s 6 + s.rv.etime.toNat / 4096 + 1 < cfg.cap cfg.line0) (t : F32) :
    isZero (rvEcho s t).2.1 = true ∧ isZero (rvEcho s t).2.2 = true := by
  have htap : ∀ time, time ≤ s.rv.etime.toNat → isZero (echoTap s time) = true := fun time ht =>
    h.isZero_readInterpolated (by omega) (by omega)
  have hm := htap _ (Nat.le_refl _)
  exact ⟨isZero_fmul_left (isZero_fadd hm (htap _ (by omega))) (by decide),
    isZero_fmul_left (isZero_fadd hm (htap _ (by omega))) (by decide)⟩

/-- Stage 1 with both bands shut: the blend is the sample (R250). -/
theorem rvTone_out {v : F32} (hklow : s.rv.klow = fZero) (hkhigh : s.rv.khigh = fZero) (hkpass : s.rv.kpass = fOne)
    (h0 : s.op[cfg.borrowed 0].Fresh) (h1 : s.op[cfg.borrowed 1].Fresh) (hv : isFinite v = true)
    (hv0 : isZero v = false) : (rvTone s v).2 = v := by
  have hlow := isFinite_of_fmag_le (h0.next_bounds hv hv0).1 hv
  have hhigh := isFinite_of_fmag_le (h1.next_bounds hv hv0).2 hv
  have hbands := isZero_fadd (isZero_fmul_right hlow isZero_fZero) (isZero_fmul_right hhigh isZero_fZero)
  simp only [rvTone, lowpass_eq, highpass_eq, rotate_rv, hklow, hkhigh, hkpass]
  rw [setOpZ1_op_of_ne _ _ (by decide), fmul_one hv]
  exact fadd_zero_left hbands hv hv0

/-- Stage 5 with only the dry path open (R253). -/
theorem rvMix_dry {r : Reverb cfg} (hkdry : r.kdry = fOne) (hkrev : r.krev = fZero) (hkecho : r.kecho = fZero)
    {v comb echo : F32} (hv : isFinite v = true) (hv0 : isZero v = false) (hcomb : isFinite comb = true)
    (hecho : isZero echo = true) : rvMix r v comb echo = v := by
  rw [rvMix, hkdry, hkrev, hkecho, fmul_one hv, fadd_zero_right hv hv0 (isZero_fmul_right hcomb isZero_fZero),
    fadd_zero_right hv hv0 (isZero_fmul_left hecho (by decide))]

/-! ## The whole unit -/

/-- A reverberator that passes its input: only the dry path and the middle band open, no history, blank memory (R67). -/
structure PassesThrough (s : State cfg) : Prop where
  klow : s.rv.klow = fZero
  khigh : s.rv.khigh = fZero
  kpass : s.rv.kpass = fOne
  kdry : s.rv.kdry = fOne
  krev : s.rv.krev = fZero
  kecho : s.rv.kecho = fZero
  kap : fmag s.rv.kap ≤ fmag fOne
  kcomb : fmag s.rv.kcomb ≤ fmag fOne
  krt : isFinite s.rv.krt = true
  yl : s.rv.yl = fZero
  yr : s.rv.yr = fZero
  units : ∀ u : Fin 5, s.op[cfg.borrowed u].Fresh
  layout : LayoutRises s
  echo : regionStart s 6 + s.rv.etime.toNat / 4096 + 1 < cfg.cap cfg.line0
  blank : ∀ a, memRead s cfg.line0 a = fZero

/-- Rotating a blank line leaves it blank, and stage 1 stores nothing. -/
theorem PassesThrough.blank_rvTone (h : PassesThrough s) (v : F32) (n : Nat) : BlankFrom (rvTone s v).1 n :=
  fun off _ _ => (memRead_rotate s cfg.line0 cfg.line0 (dlIndex (rotate s cfg.line0) cfg.line0 off)).trans (h.blank _)

/-- Stage 1 leaves the units of the combs as they were. -/
theorem rvTone_op (s : State cfg) (v : F32) {u : Fin 5} (h0 : u ≠ 0) (h1 : u ≠ 1) :
    (rvTone s v).1.op[cfg.borrowed u] = s.op[cfg.borrowed u] :=
  (setOpZ1_op_of_ne _ _ h1).trans (setOpZ1_op_of_ne _ _ h0)

/-- Stage 3 moves no boundary and no echo time. -/
theorem rvCombs_layout (s : State cfg) (d : F32) :
    (rvCombs s d).rv.s = s.rv.s ∧ (rvCombs s d).rv.etime = s.rv.etime := by
  obtain ⟨_, _, _, _, hrecord⟩ := (reverbFrame_rvCombs s d).record
  rw [hrecord]
  exact ⟨rfl, rfl⟩

/-- After the first two stages the sample goes on within its magnitude, and the combs' units and regions are as they
were. -/
theorem PassesThrough.quiet_diffused (h : PassesThrough s) {v : F32} (hv : isFinite v = true) :
    Quiet (rvTone s v).1 (regionStart s 4) v (rvDiffuse (rvTone s v).1 v) :=
  quiet_rvDiffuse (s := (rvTone s v).1) h.layout (h.blank_rvTone v _) h.kap hv

/-- After the first three stages the combs' outputs are finite, and the echo region is blank. -/
theorem PassesThrough.combs (h : PassesThrough s) {v : F32} (hv : isFinite v = true) {diff : State cfg × F32}
    (hdiff : Quiet (rvTone s v).1 (regionStart s 4) v diff) :
    BlankFrom (rvCombs diff.1 diff.2) (regionStart s 6) ∧ isFinite (rvCombs diff.1 diff.2).rv.yl = true
      ∧ isFinite (rvCombs diff.1 diff.2).rv.yr = true := by
  have hrv : diff.1.rv = s.rv := hdiff.rv
  have hunit : ∀ u : Fin 5, u ≠ 0 → u ≠ 1 → diff.1.op[cfg.borrowed u].Fresh := fun u h0 h1 => by
    rw [hdiff.op, rvTone_op s v h0 h1]
    exact h.units u
  have hd := isFinite_of_fmag_le hdiff.mag hv
  have hblank := hdiff.blank
  rw [← regionStart_congr hrv] at hblank
  obtain ⟨hb, hyl, hyr⟩ := rvCombs_blank (h.layout.congr hrv) hblank (hrv ▸ h.kcomb) (hrv ▸ h.krt) (hrv ▸ h.yl)
    (hrv ▸ h.yr) (hunit 2 (by decide) (by decide)) (hunit 3 (by decide) (by decide)) hd
  rw [regionStart_congr hrv] at hb
  exact ⟨hb, isFinite_of_fmag_le hyl hd, isFinite_of_fmag_le hyr hd⟩

/-- A finite sample other than zero comes out of both channels unchanged. -/
theorem PassesThrough.reverbStep_out (h : PassesThrough s) {v : F32} (hv : isFinite v = true) (hv0 : isZero v = false) :
    (reverbStep s v).2 = (v, v) := by
  have htone : (rvTone s v).2 = v := rvTone_out h.klow h.khigh h.kpass (h.units 0) (h.units 1) hv hv0
  have hdiff := h.quiet_diffused hv
  simp only [reverbStep, htone]
  generalize rvDiffuse (rvTone s v).1 v = diff at hdiff
  obtain ⟨hblank, hyl, hyr⟩ := h.combs hv hdiff
  obtain ⟨hs, hetime⟩ := rvCombs_layout diff.1 diff.2
  rw [show diff.1.rv = s.rv from hdiff.rv] at hs hetime
  generalize rvCombs diff.1 diff.2 = combs at hblank hyl hyr hs hetime
  have hstart : regionStart combs 6 = regionStart s 6 := by rw [regionStart, regionStart, hs]
  obtain ⟨hleft, hright⟩ := isZero_rvEcho (s := combs) (hstart ▸ hblank) (by rw [hstart, hetime]; exact h.echo) v
  rw [rvMix_dry h.kdry h.krev h.kecho hv hv0 hyl hleft, rvMix_dry h.kdry h.krev h.kecho hv hv0 hyr hright]

/-! ## The reset state -/

/-- The poles of the reverberator's units at preset 0 and FS_DEFAULT have legal arguments. -/
theorem reset_poles : ∀ u : Fin 5, inRange fZero fOne
    (poleOf Config.default (resetCutoff Config.default (Config.default.borrowed u)) 0x473B8000#32) := by
  have harg : ∀ u : Fin 5,
      let x := fneg (fdiv (fmul fTwoPi (clampf (resetCutoff Config.default (Config.default.borrowed u)) fZero
        (cutoffBound Config.default 0x473B8000#32))) 0x473B8000#32)
      isNaN x = false ∧ forder x ≤ 0 := by decide
  exact fun u => numExp_inRange (harg u).1 (harg u).2

theorem reset_fresh (u : Fin 5) : State.reset.op[Config.default.borrowed u].Fresh := by
  have hunit := reset_op (Config.default.borrowed u)
  exact hunit ▸ ⟨rfl, isFraction_one_sub (reset_poles u)⟩

/-- The reset registers pass the input, whatever the sample registers and the host's list hold. -/
theorem passesThrough_reset (x : Vector Word Config.NX) (rest : List HostEvent) :
    PassesThrough ({ State.reset with x := x, input := rest } : State) where
  klow := rfl
  khigh := rfl
  kpass := rfl
  kdry := rfl
  krev := rfl
  kecho := rfl
  kap := (by decide : fmag State.reset.rv.kap ≤ fmag fOne)
  kcomb := (by decide : fmag State.reset.rv.kcomb ≤ fmag fOne)
  krt := (by decide : isFinite State.reset.rv.krt = true)
  yl := rfl
  yr := rfl
  units := reset_fresh
  layout := LayoutRises.congr (s := State.reset) (by unfold LayoutRises; decide) rfl
  echo := (by decide : regionStart State.reset 6 + State.reset.rv.etime.toNat / 4096 + 1 < 131072)
  blank := reset_memRead 0

/-- RV.PROC from a state that passes its input writes the sample to both destinations. -/
theorem PassesThrough.execRvProc (h : PassesThrough s) (rl rr : Reg) {rs1 : Reg} (hv : isFinite (getX s rs1) = true)
    (hv0 : isZero (getX s rs1) = false) :
    ∃ t, execRvProc rl rr rs1 s = .next t ∧ t.x = (s.x.set rl (getX s rs1)).set rr (getX s rs1) := by
  obtain ⟨dl, op, yl, yr, hrecord⟩ := (reverbStep_frame s (getX s rs1)).record
  refine ⟨_, rfl, ?_⟩
  rw [h.reverbStep_out hv hv0, hrecord]
  rfl

end Sys2Proof.Machine

namespace Sys2Proof.Proofs

open Sys2Proof.Machine

/-- Settles O59: the reset registers leave only the dry path and the middle band open. -/
theorem resetReverbPassesItsInput : Obligations.ResetReverbPassesItsInput := fun x rest rl rr _ hv hv0 =>
  (passesThrough_reset x rest).execRvProc rl rr hv hv0

end Sys2Proof.Proofs
end

section
/-! SUPPORT. Delay memory and the mailbox (spec/20_memory.md): the reading commands, the cells each command stores to, the
age of an offset under rotations, and the two actions of the UI writer. -/

namespace Sys2Proof.Machine

variable {cfg : Params} {s t u : State cfg} {i : Instr}

/-! ## The reading commands (R87) -/

/-- A unit field that passes check (3) selects a unit of its bank. -/
theorem exists_unitOf_of_unitError {n : Nat} {f : UnitField} (h : (unitError n f).isNone = true) :
    ∃ d, unitOf n f = some d := by
  rw [← Option.ne_none_iff_exists', Ne, unitOf_eq_none_iff]
  unfold unitError at h
  split at h
  · omega
  · cases h

/-- An address that passes check (5) of RDREG names a register. -/
theorem exists_regAt_of_wellFormed {rd : Reg} {a : BitVec 16} (h : (Instr.rdreg rd a).wellFormedAt cfg = true) :
    ∃ r, regAt cfg a = some r := by
  rw [← Option.ne_none_iff_exists']
  simpa [Instr.wellFormedAt, Instr.rangeErrorAt] using h

/-- The outcome `r` is `s` with one value written to `rd`, and pc advanced. -/
def WritesOnly (s : State cfg) (rd : Reg) (r : StepResult cfg) : Prop := ∃ v, r = complete (setX s rd v)

theorem WritesOnly.next_eq {rd : Reg} {r : StepResult cfg} (h : WritesOnly s rd r) (hr : r = .next t) :
    t = { s with x := s.x.set rd t.x[rd], pc := s.pc + 1 } := by
  obtain ⟨v, rfl⟩ := h
  obtain rfl := (complete_eq_next _ t).1 hr
  rw [advance_x, setX_x, vector_set_self]
  rfl

/-- The destination of a reading command. -/
def readDestination : Instr → Option Reg
  | .dlRd rd _ _ | .dlRdi rd _ _ | .rdreg rd _ | .lmRd rd _ _ | .envRdf rd _ | .tlookup rd _ => some rd
  | _ => none

/-- A reading command whose operands are in range writes its destination and nothing else. -/
theorem execAt_writesOnly {rd : Reg} (hwf : i.wellFormedAt cfg = true) (hrd : readDestination i = some rd)
    (s : State cfg) : WritesOnly s rd (execAt i s) := by
  cases i
  case dlRd | dlRdi | lmRd | envRdf =>
    cases hrd
    obtain ⟨u, hu⟩ := exists_unitOf_of_unitError hwf
    simp only [execAt, execDlRd, execDlRdi, execLmRd, execEnvRdf, hu]
    exact ⟨_, rfl⟩
  case rdreg =>
    cases hrd
    obtain ⟨r, hr⟩ := exists_regAt_of_wellFormed hwf
    simp only [execAt, execRdreg, hr]
    exact ⟨_, rfl⟩
  case tlookup =>
    cases hrd
    exact ⟨_, rfl⟩
  all_goals cases hrd

/-! ## The cells an operation stores to (R80, R82) -/

/-- A store at an offset leaves every cell but the one the offset names. -/
theorem memRead_writeOffset_of_ne {d e : Fin cfg.ndl} {off a : Nat} (v : Word) (h : d = e → a ≠ dlIndex s d off) :
    memRead (writeOffset s e off v) d a = memRead s d a := by
  by_cases hde : d = e
  · subst hde
    exact memRead_memWrite_other_cell s d v (h rfl)
  · exact memRead_memWrite_other_line s _ a v hde

theorem memRead_clearLine_of_ne {d e : Fin cfg.ndl} (h : d ≠ e) (a : Nat) :
    memRead (clearLine s e) d a = memRead s d a := by
  rw [memRead, clearLine_dl, vector_set_of_ne _ _ h, memRead]

theorem memRead_resetState (fs : Nat) (d : Fin cfg.ndl) (a : Nat) : memRead (resetState fs s) d a = 0#32 := by
  rw [memRead, resetState, vector_replicate_getElem]
  rfl

theorem RegWritten.memRead_eq (h : RegWritten s t) (d : Fin cfg.ndl) (a : Nat) : memRead t d a = memRead s d a := by
  cases h
  case cursor e v => exact memRead_setCursor s e d v a
  all_goals rfl

/-! ## The cells RV.PROC stores to (spec/45_reverberator.md R248 to R252) -/

/-- A stage of RV.PROC stores to line 0 at the starts of the regions only, and moves no cursor and no boundary. -/
structure RegionStores (s t : State cfg) : Prop where
  cursor : ∀ off, dlIndex t cfg.line0 off = dlIndex s cfg.line0 off
  start : ∀ r, regionStart t r = regionStart s r
  cells : ∀ (d : Fin cfg.ndl) (a : Nat), (d = cfg.line0 → ∀ r, a ≠ dlIndex s cfg.line0 (regionStart s r)) →
    memRead t d a = memRead s d a

theorem RegionStores.trans (hst : RegionStores s t) (htu : RegionStores t u) : RegionStores s u where
  cursor off := (htu.cursor off).trans (hst.cursor off)
  start r := (htu.start r).trans (hst.start r)
  cells d a h := by
    refine (htu.cells d a fun hd r => ?_).trans (hst.cells d a h)
    rw [hst.cursor, hst.start]
    exact h hd r

theorem regionStores_setOpZ1 (s : State cfg) (v : Fin cfg.nop) (z : F32) : RegionStores s (setOpZ1 s v z) :=
  ⟨fun _ => rfl, fun _ => rfl, fun _ _ _ => rfl⟩

theorem regionStores_crossFeed (s : State cfg) (yl yr : F32) :
    RegionStores s { s with rv := { s.rv with yl := yl, yr := yr } } :=
  ⟨fun _ => rfl, fun _ => rfl, fun _ _ _ => rfl⟩

theorem regionStores_writeOffset (s : State cfg) (r : Fin 7) (v : Word) :
    RegionStores s (writeOffset s cfg.line0 (regionStart s r) v) where
  cursor off := dlIndex_writeOffset s cfg.line0 cfg.line0 _ off v
  start _ := rfl
  cells d a h := memRead_writeOffset_of_ne v (by rintro rfl; exact h rfl r)

theorem regionStores_regionAllpass (s : State cfg) (r : Fin 7) (g acc : F32) :
    RegionStores s (regionAllpass s r g acc).1 := regionStores_writeOffset s r _

theorem regionStores_rvTone (s : State cfg) (v : F32) : RegionStores (rotate s cfg.line0) (rvTone s v).1 :=
  (regionStores_setOpZ1 ..).trans (regionStores_setOpZ1 ..)

theorem regionStores_rvDiffuse (s : State cfg) (v : F32) : RegionStores s (rvDiffuse s v).1 :=
  (((regionStores_regionAllpass ..).trans (regionStores_regionAllpass ..)).trans (regionStores_regionAllpass ..)).trans
    (regionStores_regionAllpass ..)

theorem regionStores_rvCombs (s : State cfg) (v : F32) : RegionStores s (rvCombs s v) :=
  ((((regionStores_setOpZ1 ..).trans (regionStores_setOpZ1 ..)).trans (regionStores_regionAllpass ..)).trans
    (regionStores_regionAllpass ..)).trans (regionStores_crossFeed ..)

theorem regionStores_rvEcho (s : State cfg) (v : F32) : RegionStores s (rvEcho s v).1 :=
  (regionStores_setOpZ1 s (cfg.borrowed 4) _).trans (regionStores_writeOffset _ 6 _)

/-- The stages of RV.PROC from the rotated line on. -/
theorem regionStores_reverbStep (s : State cfg) (v : F32) : RegionStores (rotate s cfg.line0) (reverbStep s v).1 :=
  (((regionStores_rvTone ..).trans (regionStores_rvDiffuse ..)).trans (regionStores_rvCombs ..)).trans
    (regionStores_rvEcho ..)

/-! ## The cells a command stores to -/

/-- Command `i` on `s` stores to cell `a` of line `d`, or clears it with its line. -/
def StoresTo (s : State cfg) (i : Instr) (d : Fin cfg.ndl) (a : Nat) : Prop :=
  match i with
  | .reset => True
  | .dlWr f _ off => f = unitField d ∧ a = dlIndex s d off.toNat
  | .dlAp _ f _ inOff _ => f = unitField d ∧ a = dlIndex s d inOff.toNat
  | .dlClr f => f = unitField d
  | .rvProc _ _ _ => d = cfg.line0 ∧ ∃ r : Fin 7, a = dlIndex (rotate s cfg.line0) cfg.line0 (regionStart s r)
  | .rvRst => d = cfg.line0
  | _ => False

/-- Storing at an offset of the line a unit field selects stores to that line's cell at the offset only. -/
theorem memRead_writeOffset_unitOf {f : UnitField} {d e : Fin cfg.ndl} (he : unitOf cfg.ndl f = some e) {off a : Nat}
    (h : ¬(f = unitField d ∧ a = dlIndex s d off)) (v : Word) : memRead (writeOffset s e off v) d a = memRead s d a :=
  memRead_writeOffset_of_ne v fun hde ha => h ⟨hde ▸ eq_unitField_of_unitOf he, ha⟩

theorem Effect.memRead_eq (hu : Effect s i u) {d : Fin cfg.ndl} {a : Nat} (h : ¬StoresTo s i d a) :
    memRead u d a = memRead s d a := by
  cases hu
  case reset => exact absurd trivial h
  case wrreg ht => exact (regWritten_of_regWrite ht).memRead_eq d a
  case dlRot e _ => exact memRead_rotate s e d a
  case dlWr he rs1 _ => exact memRead_writeOffset_unitOf he h _
  case dlAp he _ _ _ => exact memRead_writeOffset_unitOf he h _
  case dlClr he => exact memRead_clearLine_of_ne (by rintro rfl; exact h (eq_unitField_of_unitOf he)) a
  case rvProc rs1 _ _ _ _ hstep =>
    have hcells := (regionStores_reverbStep s (getX s rs1)).cells d a fun hd r ha => h ⟨hd, r, ha⟩
    rw [hstep] at hcells
    exact hcells.trans (memRead_rotate s cfg.line0 d a)
  case rvRst => exact memRead_clearLine_of_ne h a
  all_goals rfl

/-- A command that has ended left every cell that it does not store to; the exception stores to none (R271). -/
theorem EndsIn.memRead_eq (ht : EndsIn i s t) {d : Fin cfg.ndl} {a : Nat} (h : ¬StoresTo s i d a) :
    memRead t d a = memRead s d a := by
  rcases ht with ⟨u, hu, rfl⟩ | rfl
  · exact hu.memRead_eq h
  · rfl

/-! ## Rotations (spec/41_delayline.md R142, R143) -/

/-- Offsets that agree modulo the capacity name the same cell. -/
theorem dlIndex_congr (s : State cfg) (d : Fin cfg.ndl) {a b : Nat} (h : a ≡ b [MOD cfg.cap d]) :
    dlIndex s d a = dlIndex s d b := by
  rw [dlIndex_eq_mod, dlIndex_eq_mod]
  exact h.add_left _

/-- The rotated cursor stands one below what it was, modulo the capacity (R142). -/
theorem rotate_dp_succ (s : State cfg) (d : Fin cfg.ndl) :
    (rotate s d).dl[d].dp.toNat + 1 ≡ s.dl[d].dp.toNat [MOD cfg.cap d] := by
  have hword : (s.dl[d].dp - 1#32).toNat + 1 ≡ s.dl[d].dp.toNat [MOD 2 ^ 32] := by
    rw [BitVec.toNat_sub, Nat.ModEq]
    have := s.dl[d].dp.isLt
    change ((2 ^ 32 - 1 + s.dl[d].dp.toNat) % 2 ^ 32 + 1) % 2 ^ 32 = s.dl[d].dp.toNat % 2 ^ 32
    omega
  rw [rotate, setCursor_dp]
  exact ((Nat.mod_modEq _ _).add_right 1).trans (hword.of_dvd (cap_dvd_word d))

/-- A rotation moves the cell at an offset to the next offset. -/
theorem dlIndex_rotate_succ (s : State cfg) (d : Fin cfg.ndl) (off : Nat) :
    dlIndex (rotate s d) d (off + 1) = dlIndex s d off := by
  rw [dlIndex_eq_mod, dlIndex_eq_mod, Nat.add_comm off, ← Nat.add_assoc]
  exact (rotate_dp_succ s d).add_right off

/-- The state after `k` DL.ROTs of line `d`. -/
def rotations (d : Fin cfg.ndl) : Nat → State cfg → State cfg
  | 0, s => s
  | k + 1, s => rotations d k (advance (rotate s d))

theorem dlIndex_rotations (d : Fin cfg.ndl) (k off : Nat) (s : State cfg) :
    dlIndex (rotations d k s) d (off + k) = dlIndex s d off := by
  induction k generalizing s off with
  | zero => rfl
  | succ k ih =>
    rw [← Nat.add_assoc, Nat.add_right_comm]
    exact (ih (off + 1) _).trans (dlIndex_rotate_succ s d off)

@[simp] theorem memRead_rotations (d e : Fin cfg.ndl) (k a : Nat) (s : State cfg) :
    memRead (rotations d k s) e a = memRead s e a := by
  induction k generalizing s with
  | zero => rfl
  | succ k ih => exact (ih _).trans (memRead_rotate s d e a)

/-- So after `k` rotations the cell at `off` reads at every offset that agrees with `off + k`. -/
theorem readOffset_rotations (s : State cfg) (d : Fin cfg.ndl) {k off off' : Nat}
    (h : off' ≡ off + k [MOD cfg.cap d]) : readOffset (rotations d k s) d off' = readOffset s d off := by
  rw [readOffset, dlIndex_congr _ d h, dlIndex_rotations, memRead_rotations, readOffset]

/-- A value stored at an offset of a canonical line reads back there. -/
theorem readOffset_writeOffset_same (hs : s.LineInv) (d : Fin cfg.ndl) (off : Nat) (v : Word) :
    readOffset (writeOffset s d off v) d off = v := by
  rw [readOffset, dlIndex_writeOffset]
  exact memRead_memWrite_same s d _ v (hs d).2

/-- A stored value stands, k rotations later, at every offset that agrees with its offset plus k. -/
theorem readOffset_rotations_written (hs : s.LineInv) (d : Fin cfg.ndl) {k off off' : Nat} (v : Word)
    (h : off' ≡ off + k [MOD cfg.cap d]) :
    readOffset (rotations d k (advance (writeOffset s d off v))) d off' = v :=
  (readOffset_rotations _ d h).trans (readOffset_writeOffset_same hs d off v)

/-- The offset of the word sum, which wraps at a multiple of the capacity. -/
theorem toNat_add_modEq_cap (d : Fin cfg.ndl) (off : Word) (k : Nat) :
    (off + BitVec.ofNat 32 k).toNat ≡ off.toNat + k [MOD cfg.cap d] := by
  have hword : (off + BitVec.ofNat 32 k).toNat ≡ off.toNat + k [MOD 2 ^ 32] := by
    rw [BitVec.toNat_add, BitVec.toNat_ofNat]
    exact (Nat.mod_modEq _ _).trans ((Nat.mod_modEq _ _).add_left _)
  exact hword.of_dvd (cap_dvd_word d)

/-! ## The delay-line commands of a selected line (R142, R144, R145) -/

theorem unitOf_ndl (d : Fin Config.NDL) : unitOf Config.default.ndl (unitField d) = some d :=
  unitOf_unitField (by decide) d

theorem execDlRot_unit {f : UnitField} {d : Fin cfg.ndl} (h : unitOf cfg.ndl f = some d) (s : State cfg) :
    execDlRot f s = .next (advance (rotate s d)) := by simp only [execDlRot, h, complete]

theorem execDlWr_unit {f : UnitField} {d : Fin cfg.ndl} (h : unitOf cfg.ndl f = some d) (rs1 : Reg) (off : Word)
    (s : State cfg) : execDlWr f rs1 off s = .next (advance (writeOffset s d off.toNat s.x[rs1])) := by
  simp only [execDlWr, h, complete, getX]

theorem execDlRd_unit {f : UnitField} {d : Fin cfg.ndl} (h : unitOf cfg.ndl f = some d) (rd : Reg) {off v : Word}
    (hv : readOffset s d off.toNat = v) :
    execDlRd rd f off s = .next { s with x := s.x.set rd v, pc := s.pc + 1 } := by
  subst hv
  simp only [execDlRd, h, complete, advance, setX]

theorem execAll_dlRot (d : Fin Config.NDL) (k : Nat) (s : State) :
    execAll (List.replicate k (.dlRot (unitField d))) s = .next (rotations d k s) := by
  induction k generalizing s with
  | zero => rfl
  | succ k ih =>
    have hrot : exec (.dlRot (unitField d)) s = .next (advance (rotate s d)) := execDlRot_unit (unitOf_ndl d) s
    rw [List.replicate_succ, execAll, hrot]
    exact ih _

/-! ## The mailbox (R88, R93) -/

theorem stepAt_uiWrite {p : Fin Config.NP} {v : Word} {rest : List HostEvent} (hs : s.input = .uiWrite p v :: rest) :
    stepAt s = .next (uiWrite { s with input := rest } p v) := by simp only [stepAt, hs]

theorem stepAt_uiDrain {p : Fin Config.NP} {rest : List HostEvent} (hs : s.input = .uiDrain p :: rest) :
    stepAt s = .next (uiDrain { s with input := rest } p) := by simp only [stepAt, hs]

theorem uiDrain_cons {p : Fin Config.NP} {v : Word} {tail : List Word} (h : s.pq[p] = v :: tail) :
    uiDrain s p = { s with p := s.p.set p v, pq := s.pq.set p tail } := by simp only [uiDrain_eq, h]

theorem uiDrain_nil {p : Fin Config.NP} (h : s.pq[p] = []) : uiDrain s p = s := by simp only [uiDrain_eq, h]

end Sys2Proof.Machine

namespace Sys2Proof.Proofs

open Sys2Proof.Machine

/-- Settles O16: a reading command that passes its check writes one value to its destination. -/
theorem readsChangeOnlyTheirDestination : Obligations.ReadsChangeOnlyTheirDestination := by
  intro i s t hwf ht
  cases i
  case dlRd | dlRdi | rdreg | lmRd | envRdf | tlookup => exact (execAt_writesOnly hwf rfl s).next_eq ht
  all_goals trivial

/-- Settles O17: RESET leaves every cell blank; every other command leaves the cells it does not store to. -/
theorem delayCellsChangeOnlyWhereStored : Obligations.DelayCellsChangeOnlyWhereStored := by
  intro i s t d a h
  have hend := execAt_endsIn (i := i) h
  cases i
  case reset =>
    cases h
    exact memRead_resetState (s := s) s.fs.toNat d a
  case dlWr | dlAp => exact fun ha => hend.memRead_eq (not_and.2 ha)
  case rvProc => exact fun ha => hend.memRead_eq fun ⟨hd, r, hr⟩ => ha hd r hr
  case dlClr | rvRst => exact fun hne => hend.memRead_eq hne
  all_goals exact hend.memRead_eq id

/-- Settles O37: the value stands in its cell, and the cell is at `off + k` after k rotations; the word addition wraps at
a multiple of the capacity, and so does a full cycle. -/
theorem writtenValueReturnsAfterRotations : Obligations.WrittenValueReturnsAfterRotations := by
  intro s d rs1 rd off k hs
  have hwr : exec (.dlWr (unitField d) rs1 off) s = .next (advance (writeOffset s d off.toNat s.x[rs1])) :=
    execDlWr_unit (unitOf_ndl d) rs1 off s
  refine ⟨rotations d k (advance (writeOffset s d off.toNat s.x[rs1])), ?run,
    execDlRd_unit (unitOf_ndl d) rd (readOffset_rotations_written hs d _ (toNat_add_modEq_cap d off k)),
    fun hk => execDlRd_unit (unitOf_ndl d) rd (readOffset_rotations_written hs d _ ?cycle)⟩
  case run =>
    rw [execAll, hwr]
    exact execAll_dlRot d k _
  case cycle =>
    rw [hk]
    exact Nat.add_modEq_right.symm

/-- Settles O8: a step on each of the UI writer's actions, the drain with and without a pending store. -/
theorem mailboxActionsTouchOnlyTheirRegister : Obligations.MailboxActionsTouchOnlyTheirRegister := by
  intro s p v rest
  refine ⟨fun hs => stepAt_uiWrite hs, fun tail hs hq => ?_, fun hs hq => ?_⟩
  · rw [← stepAt_default, stepAt_uiDrain hs, uiDrain_cons (s := { s with input := rest }) hq]
  · rw [← stepAt_default, stepAt_uiDrain hs, uiDrain_nil (s := { s with input := rest }) hq]

end Sys2Proof.Proofs
end

section
/-! SUPPORT. The decoder against the encoder (spec/30_encoding.md R100 to R108): when a word decodes to a command, that
the fields a command is read from are the fields that encode it, and which opcodes are reserved. -/

namespace Sys2Proof

variable {cfg : Params} {c : CommandWord} {i : Instr}

/-! ## Immediates (R102) -/

/-- The low half of an immediate, as the immediate of an address. -/
theorem addrImm_extract_low (v : BitVec 32) : addrImm (v.extractLsb' 0 16) = v &&& 0x0000FFFF#32 := by
  apply BitVec.eq_of_toNat_eq
  calc (addrImm (v.extractLsb' 0 16)).toNat = v.toNat % 2 ^ 16 := by
        simp only [addrImm, BitVec.toNat_append, BitVec.toNat_ofNat, BitVec.extractLsb'_toNat, Nat.zero_mod,
          Nat.zero_shiftLeft, Nat.zero_or, Nat.shiftRight_zero]
    _ = v.toNat &&& (2 ^ 16 - 1) := (Nat.and_two_pow_sub_one_eq_mod v.toNat 16).symm
    _ = (v &&& 0x0000FFFF#32).toNat := (BitVec.toNat_and v 0x0000FFFF#32).symm

/-- Bit 0 of an immediate, as the immediate of a gate level. -/
theorem gateImm_bit_zero (v : BitVec 32) : gateImm v[0] = v &&& 0x00000001#32 := by
  rw [BitVec.and_one_eq_setWidth_ofBool_getLsbD, BitVec.getLsbD_eq_getElem (by decide)]
  cases v[0] <;> rfl

/-- The two halves of an immediate. -/
theorem append_halves (v : BitVec 32) : v.extractLsb' 16 16 ++ v.extractLsb' 0 16 = v := by
  rw [BitVec.extractLsb'_append_extractLsb'_eq_extractLsb' (by decide)]
  exact BitVec.extractLsb'_eq_self

theorem and_allImm (v : BitVec 32) : v &&& allImm = v := BitVec.and_allOnes

/-! ## The fields a command uses (R101) -/

/-- The fields with every bit a command does not use at zero. -/
def Fields.usedPart (u : Uses) (f : Fields) : Fields :=
  { opcode := f.opcode
    rd := if u.rd then f.rd else 0#4
    rs1 := if u.rs1 then f.rs1 else 0#4
    rs2 := if u.rs2 then f.rs2 else 0#4
    funct := if u.funct then f.funct else 0#4
    unit := if u.unit then f.unit else 0#8
    imm := f.imm &&& u.imm }

theorem ite_zero_of_unused {n : Nat} {b : Bool} {v : BitVec n} (h : b = true ∨ v = 0#n) :
    (if b then v else 0#n) = v :=
  ite_eq_left_iff.2 fun hb => (h.resolve_left hb).symm

theorem and_of_unused {n : Nat} {v m : BitVec n} (h : v &&& ~~~m = 0#n) : v &&& m = v :=
  calc v &&& m = v &&& m ||| v &&& ~~~m := by rw [h, BitVec.or_zero]
    _ = v := by rw [← BitVec.and_or_distrib_left, BitVec.or_not_self, BitVec.and_allOnes]

/-- Check (2) asks that the used part is all. -/
theorem usedPart_of_unusedZero {u : Uses} {f : Fields} (h : unusedZero u f = true) : f.usedPart u = f := by
  simp only [unusedZero, Bool.and_eq_true, Bool.or_eq_true, beq_iff_eq] at h
  obtain ⟨⟨⟨⟨⟨hrd, hrs1⟩, hrs2⟩, hfunct⟩, hunit⟩, himm⟩ := h
  simp only [Fields.usedPart, ite_zero_of_unused hrd, ite_zero_of_unused hrs1, ite_zero_of_unused hrs2,
    ite_zero_of_unused hfunct, ite_zero_of_unused hunit, and_of_unused himm]

/-! ## Fields and commands (R105) -/

theorem opcode_eq_of_toNat {o : BitVec 8} {n : Nat} (h : o.toNat = n) : o = BitVec.ofNat 8 n :=
  h ▸ (BitVec.ofNat_toNat 8 o).symm

/-- Row by row of R105: the fields of a command are the used part of the fields it was read from. -/
theorem encodeFields_of_operandsOf {f : Fields} {u : Uses} (hu : usesOf f.opcode = some u)
    (ho : operandsOf f = some i) : encodeFields i = f.usedPart u := by
  obtain ⟨o, rd, rs1, rs2, funct, unit, imm⟩ := f
  unfold operandsOf at ho
  split at ho
  case h_39 => cases ho
  all_goals
    rename_i hop
    obtain rfl := opcode_eq_of_toNat hop
    cases hu
  -- The five rows whose funct selects by name: BQ.CFG, ENV.MODE, ENV.TIME, LM.RD and RV.PARAM.
  case h_20 =>
    obtain ⟨ty, hty, rfl⟩ := Option.map_eq_some_iff.1 ho
    simp [encodeFields, blankFields, Fields.usedPart, Machine.biquadTypeCode_of _ _ hty]
  case h_23 =>
    obtain ⟨m, hm, rfl⟩ := Option.map_eq_some_iff.1 ho
    simp [encodeFields, blankFields, Fields.usedPart, Machine.envModeCode_of _ _ hm]
  case h_24 =>
    obtain ⟨sel, hsel, rfl⟩ := Option.map_eq_some_iff.1 ho
    simp [encodeFields, blankFields, Fields.usedPart, Machine.timeSelCode_of _ _ hsel]
  case h_32 =>
    obtain ⟨sel, hsel, rfl⟩ := Option.map_eq_some_iff.1 ho
    simp [encodeFields, blankFields, Fields.usedPart, Machine.readSelCode_of _ _ hsel]
  case h_35 =>
    obtain ⟨sel, hsel, rfl⟩ := Option.map_eq_some_iff.1 ho
    simp [encodeFields, blankFields, Fields.usedPart, Machine.paramSelCode_of _ _ hsel]
  all_goals
    cases ho
    simp [encodeFields, blankFields, Fields.usedPart, and_allImm, addrImm_extract_low, gateImm_bit_zero, append_halves]

/-- Every command's fields carry an opcode of the table, leave the unused ones at zero and give the command back. -/
theorem encodeFields_roundTrip (i : Instr) : Laws.EncodingRoundTrip.Statement i := by
  cases i
  case nop => exact Laws.EncodingRoundTrip.nop
  case reset => exact Laws.EncodingRoundTrip.reset
  case setfs => exact Laws.EncodingRoundTrip.setfs _
  case cstep => exact Laws.EncodingRoundTrip.cstep _
  case ldi => exact Laws.EncodingRoundTrip.ldi _ _
  case mov => exact Laws.EncodingRoundTrip.mov _ _
  case rdreg => exact Laws.EncodingRoundTrip.rdreg _ _
  case wrreg => exact Laws.EncodingRoundTrip.wrreg _ _
  case setk => exact Laws.EncodingRoundTrip.setk _ _
  case dlRot => exact Laws.EncodingRoundTrip.dlRot _
  case dlWr => exact Laws.EncodingRoundTrip.dlWr _ _ _
  case dlRd => exact Laws.EncodingRoundTrip.dlRd _ _ _
  case dlRdi => exact Laws.EncodingRoundTrip.dlRdi _ _ _
  case dlAp => exact Laws.EncodingRoundTrip.dlAp _ _ _ _ _
  case dlClr => exact Laws.EncodingRoundTrip.dlClr _
  case opSet => exact Laws.EncodingRoundTrip.opSet _ _
  case opLp => exact Laws.EncodingRoundTrip.opLp _ _ _
  case opHp => exact Laws.EncodingRoundTrip.opHp _ _ _
  case opRst => exact Laws.EncodingRoundTrip.opRst _
  case bqCfg => exact Laws.EncodingRoundTrip.bqCfg _ _ _ _ _
  case bqProc => exact Laws.EncodingRoundTrip.bqProc _ _ _
  case bqRst => exact Laws.EncodingRoundTrip.bqRst _
  case envMode => exact Laws.EncodingRoundTrip.envMode _ _
  case envTime => exact Laws.EncodingRoundTrip.envTime _ _ _
  case envSus => exact Laws.EncodingRoundTrip.envSus _ _
  case envTick => exact Laws.EncodingRoundTrip.envTick _ _ _
  case envRdf => exact Laws.EncodingRoundTrip.envRdf _ _
  case envRst => exact Laws.EncodingRoundTrip.envRst _
  case tlookup => exact Laws.EncodingRoundTrip.tlookup _ _
  case lmCfg => exact Laws.EncodingRoundTrip.lmCfg _ _ _ _
  case lmProc => exact Laws.EncodingRoundTrip.lmProc _ _
  case lmRd => exact Laws.EncodingRoundTrip.lmRd _ _ _
  case lmRst => exact Laws.EncodingRoundTrip.lmRst _
  case rvChar => exact Laws.EncodingRoundTrip.rvChar _
  case rvParam => exact Laws.EncodingRoundTrip.rvParam _ _
  case rvEtime => exact Laws.EncodingRoundTrip.rvEtime _
  case rvProc => exact Laws.EncodingRoundTrip.rvProc _ _ _
  case rvRst => exact Laws.EncodingRoundTrip.rvRst

/-! ## Words that decode (R107) -/

/-- A word decodes to a command exactly when it passes the checks of R107 and its fields are read as that command. -/
theorem decodeAt_eq_ok_iff :
    decodeAt cfg c = .ok i ↔ (∃ u, usesOf (fieldsOf c).opcode = some u ∧ unusedZero u (fieldsOf c) = true)
      ∧ operandsOf (fieldsOf c) = some i ∧ i.wellFormedAt cfg = true := by
  unfold decodeAt
  cases hu : usesOf (fieldsOf c).opcode with
  | none => simp
  | some u =>
    cases hz : unusedZero u (fieldsOf c) with
    | false => simp [hz]
    | true =>
      cases ho : operandsOf (fieldsOf c) with
      | none => simp [hz]
      | some j =>
        simp only [if_true, Instr.wellFormedAt, Option.some.injEq, exists_eq_left', hz, true_and]
        constructor
        · intro h
          split at h
          · rename_i hr
            cases h
            exact ⟨rfl, by rw [hr]; rfl⟩
          · cases h
        · rintro ⟨rfl, hr⟩
          rw [Option.isNone_iff_eq_none.1 hr]

/-- A well-formed command is what its own word decodes to, at every configuration. -/
theorem decodeAt_encode (h : i.wellFormedAt cfg = true) : decodeAt cfg (encode i) = .ok i := by
  obtain ⟨u, hu, hz, ho⟩ := encodeFields_roundTrip i
  rw [decodeAt_eq_ok_iff, fieldsOf_encode]
  exact ⟨⟨u, hu, hz⟩, ho, h⟩

/-- A word that decodes is the word of its command, at every configuration. -/
theorem encode_of_decodeAt (h : decodeAt cfg c = .ok i) : encode i = c := by
  obtain ⟨⟨u, hu, hz⟩, ho, -⟩ := decodeAt_eq_ok_iff.1 h
  rw [encode, encodeFields_of_operandsOf hu ho, usedPart_of_unusedZero hz, wordOf_fieldsOf]

/-! ## Reserved opcodes (R108) -/

theorem unitError_ne_reservedOpcode (n : Nat) (u : UnitField) : unitError n u ≠ some .reservedOpcode := by
  unfold unitError
  split <;> simp

/-- Checks (3) to (5) answer no reserved opcode. -/
theorem rangeErrorAt_ne_reservedOpcode (i : Instr) : i.rangeErrorAt cfg ≠ some .reservedOpcode := by
  cases i
  case nop | reset | setfs | cstep | ldi | mov | setk | tlookup | rvParam | rvEtime | rvProc | rvRst =>
    simp [Instr.rangeErrorAt]
  case rdreg | rvChar =>
    simp only [Instr.rangeErrorAt]
    split <;> simp
  case wrreg | lmCfg =>
    simp only [Instr.rangeErrorAt]
    repeat' split
    all_goals simp
  all_goals exact unitError_ne_reservedOpcode _ _

/-- Only check (1) answers a reserved opcode. -/
theorem decodeAt_reservedOpcode_iff :
    decodeAt cfg c = .error .reservedOpcode ↔ usesOf (fieldsOf c).opcode = none := by
  unfold decodeAt
  split
  · simp [*]
  · rename_i u hu
    simp only [hu, reduceCtorEq, iff_false]
    split
    · split
      · simp
      · split
        · simp
        · rename_i e he
          rintro ⟨⟩
          exact rangeErrorAt_ne_reservedOpcode _ he
    · simp

/-- The opcodes without a row in R105. -/
theorem usesOf_eq_none_iff (o : BitVec 8) :
    usesOf o = none ↔
      (0x09 ≤ o.toNat ∧ o.toNat ≤ 0x0F) ∨ (0x16 ≤ o.toNat ∧ o.toNat ≤ 0x1F) ∨ (0x27 ≤ o.toNat ∧ o.toNat ≤ 0x2F)
        ∨ (0x37 ≤ o.toNat ∧ o.toNat ≤ 0x3F) ∨ (0x44 ≤ o.toNat ∧ o.toNat ≤ 0x4F) ∨ 0x55 ≤ o.toNat := by
  unfold usesOf
  split
  case h_39 =>
    simp only [imp_false] at *
    simp only [true_iff]
    omega
  all_goals simp only [reduceCtorEq, false_iff]; omega

/-! ## Pre-filter codes (R111) -/

theorem preselOf_zero : Machine.preselOf cfg 0#4 = some none := rfl

theorem preselOf_succ {f : BitVec 4} {u : Fin cfg.nbq} (h : f.toNat = u.val + 1) :
    Machine.preselOf cfg f = some (some u) := by
  unfold Machine.preselOf
  rw [if_neg (by omega), dif_pos (by omega)]
  simp [h]

end Sys2Proof

namespace Sys2Proof.Proofs

open Sys2Proof.Machine

/-- Settles O1: the round trip of the fields of every command, through the word that carries them. -/
theorem decodeOfEncodeIsTheCommand : Obligations.DecodeOfEncodeIsTheCommand := fun _ => decodeAt_encode

/-- Settles O2: what is decoded is the used part of the word, and check (2) leaves nothing else in it. -/
theorem encodeOfDecodeIsTheWord : Obligations.EncodeOfDecodeIsTheWord := by
  intro c i h
  obtain ⟨-, -, hwf⟩ := decodeAt_eq_ok_iff.1 h
  exact ⟨encode_of_decodeAt h, hwf⟩

/-- Settles O3: only check (1) answers a reserved opcode, and R105 has no row for exactly those of R108. -/
theorem reservedOpcodesAreIllegal : Obligations.ReservedOpcodesAreIllegal := by
  intro c
  rw [decodeAt_reservedOpcode_iff, usesOf_eq_none_iff, fieldsOf_opcode_toNat]

/-- Settles O4: the worked words by evaluation and by the round trip, the codes selector by selector. -/
theorem workedEncodingsDecodeAndEncode : Obligations.WorkedEncodingsDecodeAndEncode := by
  have hproc : decode 0x2521000300000000#64 = .ok (.bqProc 2 1 3#8) := by rfl
  have hap : decode 0x1440020100000071#64 = .ok (.dlAp 4 1#8 2 0#16 113#16) := by rfl
  have hldi : decode 0x041000003F800000#64 = .ok (.ldi 1 0x3F800000#32) := by rfl
  refine ⟨⟨by rfl, hproc, encode_of_decodeAt hproc, by rfl, hap, encode_of_decodeAt hap, hldi,
    encode_of_decodeAt hldi⟩, ?bqCfg, ?envMode, ?envTime, ?lmRd, ?rvParam, fun _ => rfl, by rfl, by rfl,
    fun _ _ _ _ => rfl, fun _ => ⟨preselOf_zero, fun _ _ => preselOf_succ⟩⟩
  case bqCfg => intro _ _ _ _ ty; cases ty <;> rfl
  case envMode => intro _ m; cases m <;> rfl
  case envTime => intro _ _ sel; cases sel <;> rfl
  case lmRd => intro _ _ sel; cases sel <;> rfl
  case rvParam => intro _ sel; cases sel <;> rfl

end Sys2Proof.Proofs
end

section
/-! SUPPORT. The system commands (spec/40_system.md): RESET and SETFS at the rate they have set, the clamp of SETK, the
commands that move one value, and the counter of CSTEP over one sample and over a run of samples. -/

namespace Sys2Proof.Machine

variable {cfg : Params} {s : State cfg}

/-! ## NOP, LDI and MOV (R120, R125, R129) -/

theorem execNop_eq (s : State cfg) : execNop s = .next { s with pc := s.pc + 1 } := rfl

theorem execLdi_eq (rd : Reg) (imm : Word) (s : State cfg) :
    execLdi rd imm s = .next { s with x := s.x.set rd imm, pc := s.pc + 1 } := rfl

theorem execMov_eq (rd rs1 : Reg) (s : State cfg) :
    execMov rd rs1 s = .next { s with x := s.x.set rd s.x[rs1], pc := s.pc + 1 } := rfl

/-! ## RESET (R121) -/

theorem resetState_fs (s : State cfg) : (resetState s.fs.toNat s).fs = s.fs := BitVec.ofNat_toNat ..

/-- ResetState of a state reads its mailbox and host's side alone, and keeps them, so once is enough (R121). -/
theorem resetState_advance_resetState (fs : Nat) (s : State cfg) :
    resetState fs (advance (resetState fs s)) = advance (resetState fs s) := rfl

/-- At FS_DEFAULT the registers of ResetState are those of power-on (R308). -/
theorem resetState_fsDefault (s : State cfg) :
    resetState cfg.fsDefault s = { State.resetAt cfg with p := s.p, pq := s.pq, pc := s.pc, input := s.input } := rfl

/-- A second RESET advances pc and changes nothing more. -/
theorem execReset_twice {t : State cfg} (h : execReset s = .next t) :
    execReset t = .next { t with pc := t.pc + 1 } := by
  obtain rfl := (complete_eq_next _ _).1 h
  have hsame : resetState (advance (resetState s.fs.toNat s)).fs.toNat (advance (resetState s.fs.toNat s))
      = advance (resetState s.fs.toNat s) := by
    rw [advance_fs, resetState_fs, resetState_advance_resetState]
  exact congrArg complete hsame

/-! ## SETFS (R122, R123) -/

/-- An update of every unit of a bank that is idempotent on a unit is idempotent on the bank. -/
theorem vector_ofFn_idempotent {α : Type} {n : Nat} {f : α → α} (hf : ∀ a, f (f a) = f a) (v : Vector α n) :
    (Vector.ofFn fun u : Fin n => f (Vector.ofFn fun w : Fin n => f v[w])[u])
      = Vector.ofFn fun u : Fin n => f v[u] := by
  simp only [vector_ofFn_getElem, hf]

/-- A count that was brought below the divider is left as it is, and 0 stays 0. -/
theorem wrapCount_idempotent (div : Nat) (c : Word) :
    (if div ≤ (if div ≤ c.toNat then 0#32 else c).toNat then 0#32 else if div ≤ c.toNat then 0#32 else c)
      = if div ≤ c.toNat then 0#32 else c := by
  by_cases h : div ≤ c.toNat
  · rw [if_pos h, ite_self]
  · rw [if_neg h, if_neg h]

/-- Setting the same rate again changes nothing: a derivation reads the rate and registers that SETFS does not write, so
deriving a unit twice is deriving it once. -/
theorem setRate_advance_setRate (hz : Nat) (s : State cfg) :
    setRate hz (advance (setRate hz s)) = advance (setRate hz s) := by
  simp only [setRate, advance, vector_ofFn_idempotent (f := deriveOnePole cfg _) fun _ => rfl,
    vector_ofFn_idempotent (f := deriveBiquad cfg _) fun _ => rfl,
    vector_ofFn_idempotent (f := deriveMeter _) fun _ => rfl, State.mk.injEq, true_and, and_true]
  exact wrapCount_idempotent _ _

/-- A second SETFS with the same rate advances pc and changes nothing more. -/
theorem execSetfs_twice {t : State cfg} {hz : Word} (h : execSetfs hz s = .next t) :
    execSetfs hz t = .next { t with pc := t.pc + 1 } := by
  obtain rfl := (complete_eq_next _ _).1 h
  exact congrArg complete (setRate_advance_setRate hz.toNat s)

/-! ## SETK (R128) -/

/-- A value above the upper bound gives that bound. -/
theorem clampf_of_above {v lo hi : F32} (h : fle lo hi = true) (hv : flt hi v = true) : clampf v lo hi = hi := by
  obtain ⟨hhi, hnan, hlt⟩ := flt_iff.1 hv
  have hlo : fge v lo = true := Laws.fle_trans h (fle_iff.2 ⟨hhi, hnan, hlt.le⟩)
  have hle : ¬fle v hi = true := fun hle => absurd (fle_iff.1 hle).2.2 (not_le.2 hlt)
  unfold clampf
  rw [if_pos hlo, if_neg hle]

/-- A value below the lower bound gives that bound. -/
theorem clampf_of_below {v lo hi : F32} (hv : flt v lo = true) : clampf v lo hi = lo :=
  if_neg fun hge => absurd (fle_iff.1 hge).2.2 (not_le.2 (flt_iff.1 hv).2.2)

/-! ## CSTEP (R124) -/

/-- The sample on which the count reaches the divider. -/
theorem execCstep_tick (rd : Reg) (h : s.ctrlDiv.toNat ≤ s.ctrlCnt.toNat + 1) :
    execCstep rd s = .next { s with
      ctrlCnt := 0#32, x := s.x.set rd 1#32, status := { s.status with ctick := true }, pc := s.pc + 1 } := by
  have htick : ctrlTick s = true := decide_eq_true h
  simp only [execCstep, htick, if_true]
  rfl

/-- Every other sample. -/
theorem execCstep_count (rd : Reg) (h : ¬s.ctrlDiv.toNat ≤ s.ctrlCnt.toNat + 1) :
    execCstep rd s = .next { s with
      ctrlCnt := s.ctrlCnt + 1#32, x := s.x.set rd 0#32, status := { s.status with ctick := false }
      pc := s.pc + 1 } := by
  have htick : ctrlTick s = false := decide_eq_false h
  simp only [execCstep, htick]
  rfl

/-- What the machine shows after the CSTEP of sample `k`, counted from a tick, with divider `div`: the answer in `rd`,
the count, and CTICK. -/
def ShowsSample (rd : Reg) (div k : Nat) (t : State cfg) : Prop :=
  t.x[rd] = (if k % div = 0 then 1#32 else 0#32) ∧ t.ctrlCnt.toNat = k % div ∧ t.status.ctick = decide (k % div = 0)

/-- Only the place of the sample between two ticks counts. -/
theorem ShowsSample.congr {rd : Reg} {div k l : Nat} {t : State cfg} (h : ShowsSample rd div k t)
    (hkl : k % div = l % div) : ShowsSample rd div l t := by
  unfold ShowsSample at h ⊢
  rwa [← hkl]

/-- One CSTEP from a count below the divider is the next sample. -/
theorem execCstep_showsSample (rd : Reg) (h : s.ctrlCnt.toNat < s.ctrlDiv.toNat) :
    ∃ t, execCstep rd s = .next t ∧ t.ctrlDiv = s.ctrlDiv
      ∧ ShowsSample rd s.ctrlDiv.toNat (s.ctrlCnt.toNat + 1) t := by
  by_cases htick : s.ctrlDiv.toNat ≤ s.ctrlCnt.toNat + 1
  · have hmod : (s.ctrlCnt.toNat + 1) % s.ctrlDiv.toNat = 0 := by
      rw [show s.ctrlCnt.toNat + 1 = s.ctrlDiv.toNat by omega, Nat.mod_self]
    refine ⟨_, execCstep_tick rd htick, rfl, ?_⟩
    unfold ShowsSample
    rw [hmod]
    exact ⟨vector_set_self .., rfl, rfl⟩
  · have hmod : (s.ctrlCnt.toNat + 1) % s.ctrlDiv.toNat = s.ctrlCnt.toNat + 1 := Nat.mod_eq_of_lt (not_le.1 htick)
    have hcnt : (s.ctrlCnt + 1#32).toNat = s.ctrlCnt.toNat + 1 := by
      have hdiv := s.ctrlDiv.isLt
      rw [BitVec.toNat_add, BitVec.toNat_ofNat]
      omega
    refine ⟨_, execCstep_count rd htick, rfl, ?_⟩
    unfold ShowsSample
    rw [hmod]
    exact ⟨vector_set_self .., hcnt, rfl⟩

/-- A run of CSTEPs counts on from the count it found (R293). -/
theorem execAll_cstep (rd : Reg) (n : Nat) (s : State) (h : s.ctrlCnt.toNat < s.ctrlDiv.toNat) :
    ∃ t, execAll (List.replicate (n + 1) (.cstep rd)) s = .next t
      ∧ ShowsSample rd s.ctrlDiv.toNat (s.ctrlCnt.toNat + (n + 1)) t := by
  induction n generalizing s with
  | zero =>
    obtain ⟨t, ht, -, hshows⟩ := execCstep_showsSample rd h
    have hexec : exec (.cstep rd) s = .next t := ht
    exact ⟨t, by simp only [List.replicate_succ, List.replicate_zero, execAll, hexec], hshows⟩
  | succ n ih =>
    obtain ⟨u, hu, hdiv, hshows⟩ := execCstep_showsSample rd h
    have hexec : exec (.cstep rd) s = .next u := hu
    obtain ⟨-, hcnt, -⟩ := hshows
    have hlt : u.ctrlCnt.toNat < u.ctrlDiv.toNat := by
      rw [hcnt, hdiv]
      exact Nat.mod_lt _ (by omega)
    obtain ⟨t, ht, hshows⟩ := ih u hlt
    refine ⟨t, by rw [List.replicate_succ, execAll, hexec]; exact ht, ?_⟩
    rw [hcnt, hdiv] at hshows
    refine hshows.congr ?_
    rw [Nat.mod_add_mod, add_assoc, add_comm 1]

end Sys2Proof.Machine

namespace Sys2Proof.Proofs

open Sys2Proof.Machine Sys2Proof.Laws

/-- Settles O26: what `setRate` derives, and that a derivation reads nothing it writes. -/
theorem setfsDerivesEveryRateDependentRegister : Obligations.SetfsDerivesEveryRateDependentRegister :=
  ⟨fun _ _ => rfl, fun _ _ _ => execSetfs_twice⟩

/-- Settles O28: a run of CSTEPs from a count of 0. -/
theorem controlTicksComeEveryDividerSamples : Obligations.ControlTicksComeEveryDividerSamples := by
  intro s rd n hinv hzero hn
  obtain ⟨-, -, -, -, hlt⟩ := hinv
  obtain ⟨m, rfl⟩ := Nat.exists_eq_add_one_of_ne_zero hn.ne'
  obtain ⟨t, ht, hshows⟩ := execAll_cstep rd m s hlt
  have hcnt : s.ctrlCnt.toNat = 0 := congrArg BitVec.toNat hzero
  rw [hcnt, Nat.zero_add] at hshows
  exact ⟨t, ht, hshows⟩

/-- Settles O31: what is stored is the clamp of the source, whose value each kind of source decides. -/
theorem setkStoresTheClampedCoefficient : Obligations.SetkStoresTheClampedCoefficient := by
  intro s k rs1
  have hbounds : fle 0xBF7C0000#32 0x3F7C0000#32 = true := by decide
  exact ⟨clampf s.x[rs1] 0xBF7C0000#32 0x3F7C0000#32, rfl, clampf_inRange hbounds, clampf_of_inRange,
    clampf_of_above hbounds, clampf_of_below, clampf_nan⟩

/-- Settles O24: the registers of ResetState depend on the rate alone, and ResetState keeps the rate. -/
theorem resetKeepsOnlyRateAndMailbox : Obligations.ResetKeepsOnlyRateAndMailbox := by
  intro s
  refine ⟨rfl, resetState_fs s, fun hfs => ?_, fun t => execReset_twice⟩
  have hdefault : s.fs.toNat = Config.default.fsDefault := congrArg BitVec.toNat hfs
  rw [hdefault]
  exact resetState_fsDefault s

/-- Settles O25: the three commands, each by its equation. -/
theorem nopLdiAndMovMoveBitPatterns : Obligations.NopLdiAndMovMoveBitPatterns := fun s rd rs1 imm =>
  ⟨execNop_eq s, execLdi_eq rd imm s, execMov_eq rd rs1 s⟩

/-- Settles O27: the sample of the tick and every other sample. -/
theorem cstepCountsAndTicks : Obligations.CstepCountsAndTicks := by
  intro s rd
  split
  · exact execCstep_tick rd ‹_›
  · exact execCstep_count rd ‹_›

end Sys2Proof.Proofs
end

section
/-! SUPPORT. The delay-line commands (spec/41_delayline.md): the cursor of a rotated line, the one cell a store changes,
what a cleared line holds, and the equation of each command on a selected line. -/

namespace Sys2Proof.Machine

variable {cfg : Params}

/-! ## DL.ROT (R142, R143) -/

/-- The rotated cursor, masked to the line, is the remainder of the cursor one lower. -/
theorem rotate_dp (s : State cfg) (d : Fin cfg.ndl) :
    (rotate s d).dl[d].dp.toNat = (s.dl[d].dp.toNat + cfg.cap d - 1) % cfg.cap d := by
  have hcap := cap_pos d
  have hlt : (rotate s d).dl[d].dp.toNat < cfg.cap d := by
    rw [rotate, setCursor_dp]
    exact Nat.mod_lt _ hcap
  have hsucc : (rotate s d).dl[d].dp.toNat + 1 ≡ s.dl[d].dp.toNat + cfg.cap d - 1 + 1 [MOD cfg.cap d] := by
    rw [Nat.sub_add_cancel (by omega)]
    exact (rotate_dp_succ s d).trans Nat.add_modEq_right.symm
  exact (Nat.mod_eq_of_lt hlt).symm.trans (Nat.ModEq.add_right_cancel' 1 hsucc)

/-- A rotation replaces one cursor. -/
theorem rotate_eq (s : State cfg) (d : Fin cfg.ndl) :
    rotate s d = { s with dl := s.dl.set d { s.dl[d] with dp := (rotate s d).dl[d].dp } } := by
  simp only [rotate_dl, setCursor_dl, vector_set_self]
  rfl

/-- After a full cycle every offset names the cell it named before. -/
theorem dlIndex_rotations_cap (d : Fin cfg.ndl) (off : Nat) (s : State cfg) :
    dlIndex (rotations d (cfg.cap d) s) d off = dlIndex s d off :=
  (dlIndex_congr _ d Nat.add_modEq_right.symm).trans (dlIndex_rotations d (cfg.cap d) off s)

/-! ## A store to one cell (R144, R147) -/

/-- The delay memory of `t` is that of `s` with `v` stored in cell `a` of line `d`: no cursor moves, and the cell reads
back where the line was canonical. -/
structure OneCellStored (s t : State cfg) (d : Fin cfg.ndl) (a : Nat) (v : Word) : Prop where
  cursor : ∀ e : Fin cfg.ndl, t.dl[e].dp = s.dl[e].dp
  stored : Memory.wf (cfg.cap d) s.dl[d].buf = true → memRead t d a = v
  others : ∀ (e : Fin cfg.ndl) (b : Nat), ¬(e = d ∧ b = a) → memRead t e b = memRead s e b

theorem oneCellStored_writeOffset (s : State cfg) (d : Fin cfg.ndl) (off : Nat) (v : Word) :
    OneCellStored s (writeOffset s d off v) d (dlIndex s d off) v where
  cursor e := memWrite_dp s d e _ v
  stored hwf := memRead_memWrite_same s d _ v hwf
  others _ _ h := memRead_writeOffset_of_ne v fun hed hb => h ⟨hed, hed ▸ hb⟩

/-! ## DL.CLR (R149) -/

theorem memRead_clearLine_same (s : State cfg) (d : Fin cfg.ndl) (a : Nat) : memRead (clearLine s d) d a = 0#32 := by
  rw [memRead, clearLine_dl, vector_set_self]
  rfl

theorem clearLine_dp (s : State cfg) (d : Fin cfg.ndl) : (clearLine s d).dl[d].dp = 0#32 := by
  rw [clearLine_dl, vector_set_self]

theorem clearLine_other (s : State cfg) {d e : Fin cfg.ndl} (h : e ≠ d) : (clearLine s d).dl[e] = s.dl[e] :=
  vector_set_of_ne s.dl _ h

/-! ## The commands of a selected line (R146, R147, R149) -/

theorem execDlRdi_unit {f : UnitField} {d : Fin cfg.ndl} (h : unitOf cfg.ndl f = some d) (rd : Reg) (qoff : Word)
    (s : State cfg) :
    execDlRdi rd f qoff s = .next (advance (setX s rd (readInterpolated s d qoff.toNat))) := by
  simp only [execDlRdi, h, complete]

theorem execDlAp_unit {f : UnitField} {d : Fin cfg.ndl} (h : unitOf cfg.ndl f = some d) (rd : Reg) (k : KReg)
    (inOff outOff : BitVec 16) (s : State cfg) :
    let tap := readOffset s d outOff.toNat
    let w := fsub s.x[rd] (fmul tap s.k[k])
    execDlAp rd f k inOff outOff s =
      .next (advance (setX (writeOffset s d inOff.toNat w) rd (fadd (fmul w s.k[k]) tap))) := by
  simp only [execDlAp, h, complete, allpass_eq, getX]

theorem execDlClr_unit {f : UnitField} {d : Fin cfg.ndl} (h : unitOf cfg.ndl f = some d) (s : State cfg) :
    execDlClr f s = .next (advance (clearLine s d)) := by
  simp only [execDlClr, h, complete]

end Sys2Proof.Machine

namespace Sys2Proof.Proofs

open Sys2Proof.Machine

/-- Settles O32: one rotation by its cursor, k rotations by the age of an offset, a full cycle by the modulus. -/
theorem offsetsAgeByOnePerRotation : Obligations.OffsetsAgeByOnePerRotation := by
  intro s d
  have hrot : exec (.dlRot (unitField d)) s = .next (advance (rotate s d)) := execDlRot_unit (unitOf_ndl d) s
  refine ⟨⟨(rotate s d).dl[d].dp, rotate_dp s d, ?one⟩, fun off k => ⟨rotations d k s, execAll_dlRot d k s,
    dlIndex_rotations d k off s, readOffset_rotations s d (Nat.ModEq.refl _), ?cycle⟩⟩
  case one => exact hrot.trans (congrArg complete (rotate_eq s d))
  case cycle =>
    rintro rfl
    exact dlIndex_rotations_cap d off s

/-- Settles O33: the store of one cell, its index read as a remainder. -/
theorem delayWriteStoresOneCell : Obligations.DelayWriteStoresOneCell := by
  intro s d rs1 off
  have hstore := oneCellStored_writeOffset s d off.toNat s.x[rs1]
  rw [dlIndex_eq_mod] at hstore
  exact ⟨_, execDlWr_unit (unitOf_ndl d) rs1 off s, rfl, hstore.cursor, hstore.stored, hstore.others⟩

/-- Settles O34: the one cell of DL.RD, and the interpolated read by its two cells, each index read as a remainder. -/
theorem delayReadsReturnTheirCells : Obligations.DelayReadsReturnTheirCells := by
  intro s rd d imm
  have hcell : ∀ off, readOffset s d off = memRead s d ((s.dl[d].dp.toNat + off) % Config.cap d) := fun off => by
    rw [readOffset, dlIndex_eq_mod]
  refine ⟨execDlRd_unit (unitOf_ndl d) rd (hcell imm.toNat), ?_⟩
  have hrdi := execDlRdi_unit (unitOf_ndl d) rd imm s
  rw [readInterpolated_eq, hcell, hcell] at hrdi
  exact hrdi

/-- Settles O35: the store of one cell, with the tap read before it. -/
theorem allpassStoresThenReturns : Obligations.AllpassStoresThenReturns := by
  intro s rd d k inOff outOff tap w
  have hstore := oneCellStored_writeOffset s d inOff.toNat w
  exact ⟨_, execDlAp_unit (unitOf_ndl d) rd k inOff outOff s, rfl, hstore.cursor, hstore.stored, hstore.others⟩

/-- Settles O36: the cleared line and the other lines. -/
theorem clearZeroesOneLine : Obligations.ClearZeroesOneLine := by
  intro s d
  exact ⟨advance (clearLine s d), execDlClr_unit (unitOf_ndl d) s, rfl, memRead_clearLine_same s d, clearLine_dp s d,
    fun _ he => clearLine_other s he⟩

end Sys2Proof.Proofs
end

section
/-! SUPPORT. The filter commands (spec/42_filters.md): the equation of each command on a selected unit, a one-pole unit
whose history has reached its input, the pole at a positive rate, and the biquad derivation past its clamps. -/

namespace Sys2Proof.Machine

open Sys2Proof.Laws

variable {cfg : Params} {s : State cfg}

/-! ## The one-pole commands of a selected unit (R161 to R164, R169) -/

theorem unitOf_nop (u : Fin Config.NOP) : unitOf Config.default.nop (unitField u) = some u :=
  unitOf_unitField (by decide) u

theorem execOpSet_unit {f : UnitField} {u : Fin cfg.nop} (h : unitOf cfg.nop f = some u) (rs1 : Reg) :
    execOpSet f rs1 s = complete (setCutoff s u s.x[rs1]) := by
  simp only [execOpSet, h, getX]

theorem execOpLp_unit {f : UnitField} {u : Fin cfg.nop} (h : unitOf cfg.nop f = some u) (rd rs1 : Reg) :
    let z := onePoleNext s.op[u] s.x[rs1]
    execOpLp rd rs1 f s = complete (setX (setOpZ1 s u z) rd z) := by
  simp only [execOpLp, h, lowpass_eq, getX]

theorem execOpHp_unit {f : UnitField} {u : Fin cfg.nop} (h : unitOf cfg.nop f = some u) (rd rs1 : Reg) :
    let z := onePoleNext s.op[u] s.x[rs1]
    execOpHp rd rs1 f s = complete (setX (setOpZ1 s u z) rd (fsub s.x[rs1] z)) := by
  simp only [execOpHp, h, highpass_eq, getX]

theorem execOpRst_unit {f : UnitField} {u : Fin cfg.nop} (h : unitOf cfg.nop f = some u) :
    execOpRst f s = complete (setOpZ1 s u fZero) := by
  simp only [execOpRst, h]

/-! ## The biquad commands of a selected unit (R165, R168, R170) -/

theorem unitOf_nbq (u : Fin Config.NBQ) : unitOf Config.default.nbq (unitField u) = some u :=
  unitOf_unitField (by decide) u

theorem execBqCfg_unit {f : UnitField} {u : Fin cfg.nbq} (h : unitOf cfg.nbq f = some u) (ty : BiquadType)
    (rfc rq rgain : Reg) :
    execBqCfg f ty rfc rq rgain s
      = complete (setBq s u (configureBiquad cfg s.bq[u] ty s.x[rfc] s.x[rq] s.x[rgain] s.fsf)) := by
  simp only [execBqCfg, h, getX]

theorem execBqProc_unit {f : UnitField} {u : Fin cfg.nbq} (h : unitOf cfg.nbq f = some u) (rd rs1 : Reg) :
    execBqProc rd rs1 f s
      = complete (setX (setBq s u (biquadAdvance s.bq[u] s.x[rs1])) rd (biquadOut s.bq[u] s.x[rs1])) := by
  simp only [execBqProc, h, biquadStep_eq, getX]

theorem execBqRst_unit {f : UnitField} {u : Fin cfg.nbq} (h : unitOf cfg.nbq f = some u) :
    execBqRst f s = complete (setBq s u { s.bq[u] with z1 := fZero, z2 := fZero }) := by
  simp only [execBqRst, h]

/-! ## A history that has reached its input (R171) -/

section

variable {a z : F32}

theorem fsub_self (ha : isFinite a = true) : fsub a a = fZero := by
  rw [fsub_exact_zero ha ha rfl, Bool.and_not_self]
  rfl

/-- The one zero that adding +0.0 changes is -0.0. -/
theorem eq_fZero_of_isZero (hz : isZero a = true) (hne : a ≠ 0x80000000#32) : a = fZero := by
  have hmag : fmag a = 0 := of_decide_eq_true hz
  cases hs : fsign a
  · exact eq_of_fsign_fmag hs hmag
  · exact absurd (eq_of_fsign_fmag (b := 0x80000000#32) hs hmag) hne

theorem fadd_zero_right_of_ne (ha : isFinite a = true) (hne : a ≠ 0x80000000#32) (hz : isZero z = true) :
    fadd a z = a := by
  cases h0 : isZero a
  · exact fadd_zero_right ha h0 hz
  · obtain rfl := eq_fZero_of_isZero h0 hne
    have hsum : fvalue fZero + fvalue z = 0 := by rw [fvalue_eq_zero_iff.2 h0, fvalue_eq_zero_iff.2 hz, add_zero]
    rw [fadd_exact_zero ha (isFinite_of_isZero hz) hsum]
    rfl

/-- The input less the history is +0.0, and no coefficient makes more of it than a zero. -/
theorem onePoleNext_of_settled {o : OnePole} (hz1 : o.z1 = a) (ha : isFinite a = true) (hne : a ≠ 0x80000000#32)
    (ha0 : isFinite o.a0 = true) : onePoleNext o a = a := by
  unfold onePoleNext
  rw [hz1, fsub_self ha]
  exact fadd_zero_right_of_ne ha hne (isZero_fmul_left isZero_fZero ha0)

end

theorem setOpZ1_self (s : State cfg) {u : Fin cfg.nop} {z : F32} (h : s.op[u].z1 = z) : setOpZ1 s u z = s := by
  subst h
  exact congrArg (fun op => { s with op := op }) (Vector.set_getElem_self _)

/-! ## The pole at a positive rate (R162) -/

section

variable {a p : F32}

theorem fle_zero_of_isZero (h : isZero a = true) : fle fZero a = true :=
  fle_iff.2 ⟨by decide, isNaN_of_isZero h, (isZero_iff.1 h).ge⟩

theorem fle_zero_pack {m : Nat} (h : m ≤ infMag) : fle fZero (pack false m) = true := by
  have hlt : m < 0x80000000 := h.trans_lt (by decide)
  have hnan : isNaN (pack false m) = false := by
    rw [isNaN, fmag_pack_of_lt hlt]
    exact decide_eq_false (not_lt.2 h)
  have horder : forder (pack false m) = m := by
    rw [forder, fsign_pack_of_lt hlt, fmag_pack_of_lt hlt]
    rfl
  exact fle_iff.2 ⟨by decide, hnan, horder ▸ Int.natCast_nonneg m⟩

theorem positiveFinite_iff : positiveFinite p = true ↔ isFinite p = true ∧ isZero p = false ∧ fsign p = false := by
  rw [positiveFinite, Bool.and_eq_true]
  refine and_congr_right fun hfin => ⟨fun h => sign_of_forder_pos (flt_iff.1 h).2.2, fun ⟨hz, hs⟩ => ?_⟩
  have hmag : fmag p ≠ 0 := of_decide_eq_false hz
  have horder : forder p = fmag p := by rw [forder, hs]; rfl
  refine flt_iff.2 ⟨by decide, (isFinite_kind hfin).1, ?_⟩
  rw [horder]
  exact Int.natCast_pos.2 (Nat.pos_of_ne_zero hmag)

theorem isFinite_or_isInf (h : isNaN a = false) : isFinite a = true ∨ isInf a = true := by
  have hle : fmag a ≤ infMag := not_lt.1 (of_decide_eq_false h)
  exact hle.lt_or_eq.imp decide_eq_true decide_eq_true

/-- A positive number times one that is not negative, an infinity included, is not negative. -/
theorem fle_zero_fmul (hp : positiveFinite p = true) (ha : fle fZero a = true) : fle fZero (fmul p a) = true := by
  obtain ⟨hpfin, hpz, hps⟩ := positiveFinite_iff.1 hp
  have hnan := (fle_iff.1 ha).2.1
  cases hz : isZero a
  · have hs := fsign_of_positive ha hz
    rcases isFinite_or_isInf hnan with hfin | hinf
    · rw [fmul_finite hpfin hfin, hps, hs]
      exact fle_zero_pack (roundMag_le_infMag _ _)
    · rw [fmul_inf (.inr hinf) ⟨(isFinite_kind hpfin).1, hpz⟩ ⟨hnan, hz⟩, hps, hs]
      exact fle_zero_pack le_rfl
  · exact fle_zero_of_isZero (isZero_fmul_right hpfin hz)

theorem isZero_fdiv (ha : isZero a = true) (hp : positiveFinite p = true) : isZero (fdiv a p) = true := by
  obtain ⟨hpfin, hpz, -⟩ := positiveFinite_iff.1 hp
  have hunits : funits a = 0 := by rw [funits, of_decide_eq_true ha]; rfl
  rw [fdiv_finite (isFinite_of_isZero ha) hpfin hpz, isZero, fmag_pack_roundMag, hunits, Nat.zero_mul]
  exact decide_eq_true (Nat.le_zero.1 (roundMag_le (funits_pos hpz) (Nat.zero_le _)))

/-- A number that is not negative, an infinity included, over a positive one is not negative. -/
theorem fle_zero_fdiv (ha : fle fZero a = true) (hp : positiveFinite p = true) : fle fZero (fdiv a p) = true := by
  obtain ⟨hpfin, hpz, hps⟩ := positiveFinite_iff.1 hp
  cases hz : isZero a
  · have hs := fsign_of_positive ha hz
    rcases isFinite_or_isInf (fle_iff.1 ha).2.1 with hfin | hinf
    · rw [fdiv_finite hfin hpfin hpz, hps, hs]
      exact fle_zero_pack (roundMag_le_infMag _ _)
    · rw [fdiv_inf_left hinf hpfin, hps, hs]
      exact fle_zero_pack le_rfl
  · exact fle_zero_of_isZero (isZero_fdiv hz hp)

/-- A number at least a pattern's value rounds to at least that pattern. -/
theorem le_roundMag {n d c : Nat} (hd : 0 < d) (hc : c ≤ infMag) (h : unitsOfMag c * d ≤ n) : c ≤ roundMag n d := by
  have hnear := (roundIndex_nearest n c hd).1
  have hle : unitsOfMag c ≤ unitsOfMag (roundIndex n d) := by
    by_contra hlt
    have hmul := Nat.mul_lt_mul_of_pos_right (not_le.1 hlt) hd
    rw [← Nat.cast_mul, ← Nat.cast_mul] at hnear
    omega
  exact le_min (unitsOfMag_strictMono.le_iff_le.1 hle) hc

/-- FSF at every rate a configuration admits, as its rates are below 2^24 (R8). -/
theorem positiveFinite_u2f {n : Nat} (h0 : 0 < n) (h : n < 2 ^ 24) : positiveFinite (u2f n) = true := by
  have hone : unitsOfMag (fmag fOne) = 2 ^ 149 := funits_fOne
  have hlow : fmag fOne ≤ roundMag (n * 2 ^ 149) 1 := le_roundMag Nat.one_pos (by decide) (by rw [hone]; omega)
  have htop : unitsOfMag (fmag 0x4B800000#32) = 2 ^ 24 * 2 ^ 149 := by decide
  have hhigh : roundMag (n * 2 ^ 149) 1 ≤ fmag 0x4B800000#32 := roundMag_le Nat.one_pos (by rw [htop]; omega)
  refine positiveFinite_iff.2 ⟨?_, ?_, fsign_pack_roundMag ..⟩
  · rw [u2f, isFinite, fmag_pack_roundMag]
    exact decide_eq_true (hhigh.trans_lt (by decide))
  · rw [u2f, isZero, fmag_pack_roundMag]
    exact decide_eq_false (Nat.ne_of_gt (hlow.trans_lt' (by decide)))

end

section

variable {fsf : F32} (hfsf : positiveFinite fsf = true)
include hfsf

theorem fle_zero_cutoffBound : fle fZero (cutoffBound Config.default fsf) = true :=
  fle_zero_fmul hfsf (by decide)

/-- The exponential's argument is minus a number that is not negative, so the pole is in [0, 1]. -/
theorem poleOf_inRange (fc : F32) : inRange fZero fOne (poleOf Config.default fc fsf) := by
  have hcut := (clampf_inRange (v := fc) (fle_zero_cutoffBound hfsf)).1
  have harg := fle_iff.1 (fle_zero_fdiv (fle_zero_fmul (p := fTwoPi) (by decide) hcut) hfsf)
  have hzero : forder fZero = 0 := by decide
  refine numExp_inRange ((isNaN_fneg _).trans harg.2.1) ?_
  rw [forder_fneg, Left.neg_nonpos_iff]
  exact hzero ▸ harg.2.2

/-- A cutoff that is zero, negative or a NaN clamps to a zero, and the exponential of a zero is one. -/
theorem poleOf_of_not_positive {fc : F32} (h : flt fZero fc = false) : poleOf Config.default fc fsf = fOne := by
  have hcut : isZero (clampf fc fZero (cutoffBound Config.default fsf)) = true := by
    cases hnan : isNaN fc
    · have hle : fle fc fZero = true := by
        by_contra hgt
        exact absurd (flt_of_not_fle hnan (by decide) hgt) (by rw [h]; decide)
      rcases (fle_iff.1 hle).2.2.lt_or_eq with hneg | hzero
      · rw [clampf_of_below (flt_iff.2 ⟨hnan, by decide, hneg⟩)]
        decide
      · have hz : isZero fc = true := isZero_iff.2 hzero
        rw [clampf_of_inRange ⟨fle_zero_of_isZero hz, fle_trans hle (fle_zero_cutoffBound hfsf)⟩]
        exact hz
    · rw [clampf_nan hnan]
      decide
  refine numExp_zero ?_
  rw [isZero_fneg]
  exact isZero_fdiv (isZero_fmul_right (by decide) hcut) hfsf

end

theorem inRange_of_isFraction {a : F32} (h : IsFraction a) : inRange fZero fOne a := by
  obtain ⟨hsign, hmag⟩ := h
  have hnan : isNaN a = false := isNaN_of_isFinite (isFinite_of_fmag_le hmag (by decide))
  have horder : forder a = fmag a := by rw [forder, hsign]; rfl
  have hone : forder fOne = fmag fOne := by decide
  refine ⟨fle_iff.2 ⟨by decide, hnan, ?_⟩, fle_iff.2 ⟨hnan, by decide, ?_⟩⟩
  · rw [horder]
    exact Int.natCast_nonneg _
  · rw [horder, hone]
    exact Int.ofNat_le.2 hmag

/-! ## The biquad derivation (R166) -/

theorem clampf_clampf {v lo hi : F32} (h : fle lo hi = true) : clampf (clampf v lo hi) lo hi = clampf v lo hi :=
  clampf_of_inRange (clampf_inRange h)

/-- The derivation reads each parameter through its clamp. -/
theorem biquadCoeffs_clamped (ty : BiquadType) (fc q gain fsf : F32) (hfc : fle cfg.fcMin (cutoffBound cfg fsf) = true)
    (hq : fle cfg.qMin cfg.qMax = true) (hgain : fle (fneg cfg.gainMax) cfg.gainMax = true) :
    biquadCoeffs cfg ty fc q gain fsf
      = biquadCoeffs cfg ty (clampf fc cfg.fcMin (cutoffBound cfg fsf)) (clampf q cfg.qMin cfg.qMax)
        (clampf gain (fneg cfg.gainMax) cfg.gainMax) fsf := by
  simp only [biquadCoeffs, clampf_clampf hfc, clampf_clampf hq, clampf_clampf hgain]

end Sys2Proof.Machine

namespace Sys2Proof.Proofs

open Sys2Proof.Machine

/-- Settles O39: one less the pole, which is in [0, 1] at every positive rate and is one at a cutoff that is not
positive. -/
theorem onePoleCoefficientIsInTheUnitInterval : Obligations.OnePoleCoefficientIsInTheUnitInterval := by
  intro fc fs hmin hmax
  have hfsf : positiveFinite (u2f fs) = true := positiveFinite_u2f (by omega) (by omega)
  refine ⟨inRange_of_isFraction (isFraction_one_sub (poleOf_inRange hfsf fc)), fun hfc => ?_⟩
  rw [onePoleA0, poleOf_of_not_positive hfsf hfc]
  decide

/-- Settles O40: the unit's next history is the input, which is the history it has. -/
theorem constantInputIsALowpassFixedPoint : Obligations.ConstantInputIsALowpassFixedPoint := by
  intro s u rd rs1 hfin hne hz1 ha0
  have hnext : onePoleNext s.op[u] s.x[rs1] = s.x[rs1] :=
    onePoleNext_of_settled hz1 hfin hne (isFinite_of_fmag_le (fmag_le_of_unit ha0) (by decide))
  have hlp : exec (.opLp rd rs1 (unitField u)) s = _ := execOpLp_unit (unitOf_nop u) rd rs1
  have hhp : exec (.opHp rd rs1 (unitField u)) s = _ := execOpHp_unit (unitOf_nop u) rd rs1
  rw [hnext, setOpZ1_self s hz1] at hlp hhp
  rw [fsub_self hfin] at hhp
  exact ⟨hlp, hhp⟩

/-- Settles O42: a clamped parameter clamps to itself, and the formulas type by type, each gain type in both branches. -/
theorem biquadDerivationClampsItsParameters : Obligations.BiquadDerivationClampsItsParameters := by
  intro ty fc q gain fsf
  refine ⟨fun hbound => biquadCoeffs_clamped ty fc q gain fsf hbound (by decide) (by decide), ?_⟩
  intro c one g k v boost
  have hc : c = coeffsOfTerms ty boost k (clampf q 0x3D800000#32 0x42800000#32) v := rfl
  clear_value c boost k v
  subst hc
  cases ty with
  | lpf | bpf | hpf | notch => exact ⟨rfl, rfl, rfl, rfl, rfl⟩
  | peak | lowshelf | highshelf => cases boost <;> exact ⟨rfl, rfl, rfl, rfl, rfl⟩

/-- Settles O38: the equation of each command on its unit. -/
theorem onePoleCommandsActOnOneUnit : Obligations.OnePoleCommandsActOnOneUnit := fun _ u rd rs1 =>
  ⟨execOpSet_unit (unitOf_nop u) rs1, execOpLp_unit (unitOf_nop u) rd rs1, execOpHp_unit (unitOf_nop u) rd rs1,
    execOpRst_unit (unitOf_nop u)⟩

/-- Settles O41: the equation of each command on its unit. -/
theorem biquadCommandsActOnOneUnit : Obligations.BiquadCommandsActOnOneUnit := fun _ u ty rd rs1 rq rgain =>
  ⟨execBqCfg_unit (unitOf_nbq u) ty rs1 rq rgain, execBqProc_unit (unitOf_nbq u) rd rs1,
    execBqRst_unit (unitOf_nbq u)⟩

end Sys2Proof.Proofs
end

section
/-! SUPPORT. The level-meter commands (spec/44_levelmeter.md): the equation of each command on a selected meter, a decayed
level between zero and what it was, and the countdown of the hold time over a run of silent samples. -/

namespace Sys2Proof.Machine

open Sys2Proof.Laws

variable {cfg : Params} {s : State cfg}

/-! ## One sample through a meter (R223) -/

/-- The hold count goes down by one and stops at zero. -/
theorem hold_countdown (h : Word) : (if h = 0#32 then 0#32 else h - 1#32) = BitVec.ofNat 32 (h.toNat - 1) := by
  split
  · subst h
    rfl
  · bv_omega

theorem meterAdvance_eq (v : Meter cfg) (val : F32) :
    meterAdvance v val = if fgt val v.level then { v with level := val, peak := val, hold := v.holdCfg }
      else { v with level := fmul v.level v.coef, hold := BitVec.ofNat 32 (v.hold.toNat - 1) } := by
  rw [meterAdvance, hold_countdown]

theorem meterAdvance_attack {v : Meter cfg} {val : F32} (h : fgt val v.level = true) :
    meterAdvance v val = { v with level := val, peak := val, hold := v.holdCfg } := by
  rw [meterAdvance_eq, if_pos h]

theorem meterAdvance_release {v : Meter cfg} {val : F32} (h : fgt val v.level ≠ true) :
    meterAdvance v val = { v with level := fmul v.level v.coef, hold := BitVec.ofNat 32 (v.hold.toNat - 1) } := by
  rw [meterAdvance_eq, if_neg h]

/-! ## The commands of a selected meter (R220, R223, R225, R227) -/

theorem unitOf_nlm (m : Fin Config.NLM) : unitOf Config.default.nlm (unitField m) = some m :=
  unitOf_unitField (by decide) m

theorem execLmCfg_unit {f : UnitField} {m : Fin cfg.nlm} (h : unitOf cfg.nlm f = some m) {presel : BitVec 4}
    {pre : Option (Fin cfg.nbq)} (hpre : preselOf cfg presel = some pre) (rs1 : Reg) (hold : Word) :
    execLmCfg f rs1 presel hold s = complete (setLm s m { s.lm[m] with
      fcs := s.x[rs1], presel := pre, holdCfg := hold, coef := meterCoef cfg s.x[rs1] s.fsf }) := by
  simp only [execLmCfg, h, hpre, getX]

theorem execLmProc_unit {f : UnitField} {m : Fin cfg.nlm} (h : unitOf cfg.nlm f = some m) (rs1 : Reg) :
    let r := prefilter s s.lm[m].presel s.x[rs1]
    execLmProc f rs1 s = complete (setLm r.1 m (meterAdvance s.lm[m] (fabs r.2))) := by
  simp only [execLmProc, h, getX]

theorem execLmRd_unit {f : UnitField} {m : Fin cfg.nlm} (h : unitOf cfg.nlm f = some m) (rd : Reg) (sel : ReadSel) :
    execLmRd rd f sel s = complete (setX s rd (meterReading s.lm[m] sel)) := by
  simp only [execLmRd, h]

theorem execLmRst_unit {f : UnitField} {m : Fin cfg.nlm} (h : unitOf cfg.nlm f = some m) :
    execLmRst f s = complete (setLm s m { s.lm[m] with level := fZero, peak := fZero, hold := 0#32 }) := by
  simp only [execLmRst, h]

/-- Without a pre-filter the meter measures the source itself (R222). -/
theorem execLmProc_direct {f : UnitField} {m : Fin cfg.nlm} (h : unitOf cfg.nlm f = some m)
    (hpre : s.lm[m].presel = none) (rs1 : Reg) :
    execLmProc f rs1 s = complete (setLm s m (meterAdvance s.lm[m] (fabs s.x[rs1]))) := by
  rw [execLmProc_unit h, hpre]
  rfl

/-- With one it measures what the unit makes of the source, and the unit advances (R222). -/
theorem execLmProc_prefiltered {f : UnitField} {m : Fin cfg.nlm} (h : unitOf cfg.nlm f = some m) {u : Fin cfg.nbq}
    (hpre : s.lm[m].presel = some u) (rs1 : Reg) :
    execLmProc f rs1 s = complete (setLm (setBq s u (biquadAdvance s.bq[u] s.x[rs1])) m
      (meterAdvance s.lm[m] (fabs (biquadOut s.bq[u] s.x[rs1])))) := by
  rw [execLmProc_unit h, hpre]
  rfl

/-- Whatever the pre-filter, the meter of an LM.PROC has advanced by some sample. -/
theorem lm_of_execLmProc {f : UnitField} {m : Fin cfg.nlm} (h : unitOf cfg.nlm f = some m) {rs1 : Reg} {t : State cfg}
    (ht : execLmProc f rs1 s = .next t) : ∃ val, t.lm[m] = meterAdvance s.lm[m] val := by
  rw [execLmProc_unit h, complete_eq_next] at ht
  subst ht
  exact ⟨_, vector_set_self ..⟩

/-! ## A decayed level (R224) -/

section

variable {a b c : F32}

theorem fle_of_flt (h : flt a b = true) : fle a b = true := by
  obtain ⟨ha, hb, hlt⟩ := flt_iff.1 h
  exact fle_iff.2 ⟨ha, hb, hlt.le⟩

theorem not_flt_of_fle (h : fle a b = true) : flt b a ≠ true := fun hlt =>
  absurd (fle_iff.1 h).2.2 (flt_iff.1 hlt).2.2.not_ge

theorem isFinite_of_unit (hc : inRange fZero fOne c) : isFinite c = true :=
  isFinite_of_fmag_le (fmag_le_of_unit hc) (by decide)

/-- A number of the unit interval is a zero or positive. -/
theorem isZero_or_positiveFinite_of_unit (hc : inRange fZero fOne c) : isZero c = true ∨ positiveFinite c = true := by
  cases hz : isZero c
  · exact .inr (positiveFinite_iff.2 ⟨isFinite_of_unit hc, hz, fsign_of_positive hc.1 hz⟩)
  · exact .inl rfl

/-- A finite level that is not negative decays to one that is not negative. -/
theorem fle_zero_fmul_unit (ha : fle fZero a = true) (hfin : isFinite a = true) (hc : inRange fZero fOne c) :
    fle fZero (fmul a c) = true := by
  rcases isZero_or_positiveFinite_of_unit hc with hz | hpos
  · exact fle_zero_of_isZero (isZero_fmul_right hfin hz)
  · rw [fmul_comm hfin (isFinite_of_unit hc)]
    exact fle_zero_fmul hpos ha

/-- And to one that is not above it. -/
theorem fle_fmul_unit (ha : fle fZero a = true) (hfin : isFinite a = true) (hc : inRange fZero fOne c) :
    fle (fmul a c) a = true := by
  obtain ⟨-, hprodNum, hprod⟩ := fle_iff.1 (fle_zero_fmul_unit ha hfin hc)
  obtain ⟨-, haNum, hle⟩ := fle_iff.1 ha
  have hzero : forder fZero = 0 := by decide
  have hmag := fmag_fmul_le_left hfin (fmag_le_of_unit hc)
  rw [fmag_eq_natAbs, fmag_eq_natAbs] at hmag
  exact fle_iff.2 ⟨hprodNum, haNum, by omega⟩

/-- An infinite level decays to an infinity or, with a coefficient of zero, to a NaN; no level decays below zero. -/
theorem not_flt_zero_fmul_unit (ha : flt a fZero ≠ true) (hc : inRange fZero fOne c) : flt (fmul a c) fZero ≠ true := by
  have hnan_not : ∀ {x : F32}, isNaN x = true → flt x fZero ≠ true := fun hx hlt => by
    rw [(flt_iff.1 hlt).1] at hx
    cases hx
  cases hnan : isNaN a
  · have hle : fle fZero a = true := by_contra fun h => ha (flt_of_not_fle (by decide) hnan h)
    rcases isFinite_or_isInf hnan with hfin | hinf
    · exact not_flt_of_fle (fle_zero_fmul_unit hle hfin hc)
    · rcases isZero_or_positiveFinite_of_unit hc with hz | hpos
      · rw [fmul_inf_zero (.inl ⟨hinf, hz⟩)]
        exact hnan_not (isNaN_quietNaN _)
      · obtain ⟨hcfin, hcz, hcs⟩ := positiveFinite_iff.1 hpos
        have haz := (isInf_kind hinf).2
        rw [fmul_inf (.inl hinf) ⟨hnan, haz⟩ ⟨(isFinite_kind hcfin).1, hcz⟩, hcs, fsign_of_positive hle haz]
        decide
  · rw [fmul_nan (.inl hnan)]
    exact hnan_not (isNaN_quietNaN _)

end

theorem meterAdvance_undisturbed {v : Meter cfg} (h : v.Undisturbed) (hfin : isFinite v.level = true) (val : F32) :
    (meterAdvance v val).Undisturbed := by
  obtain ⟨hcoef, hlevel, hpeak⟩ := h
  by_cases hgt : fgt val v.level = true
  · rw [meterAdvance_attack hgt]
    have habove := fle_of_flt hgt
    exact ⟨hcoef, fle_trans hlevel habove, fle_refl_of_fle_right habove⟩
  · rw [meterAdvance_release hgt]
    exact ⟨hcoef, fle_zero_fmul_unit hlevel hfin hcoef, fle_trans (fle_fmul_unit hlevel hfin hcoef) hpeak⟩

/-- A coefficient derived at a positive rate is a pole, and so in the unit interval (R221). -/
theorem meterCoef_inRange {fsf : F32} (h : positiveFinite fsf = true) (fcs : F32) :
    inRange fZero fOne (meterCoef Config.default fcs fsf) := poleOf_inRange h fcs

/-! ## A run of silence (R228) -/

/-- A meter on which a silent sample releases, and keeps releasing: the level may be infinite, or the NaN that an infinity
decays to, but not negative. -/
structure Meter.Releasing (v : Meter cfg) : Prop where
  coef : inRange fZero fOne v.coef
  level : flt v.level fZero ≠ true

theorem meterAdvance_silence {v : Meter cfg} (h : v.Releasing) :
    meterAdvance v fZero = { v with level := fmul v.level v.coef, hold := BitVec.ofNat 32 (v.hold.toNat - 1) } :=
  meterAdvance_release h.level

theorem Meter.Releasing.silence {v : Meter cfg} (h : v.Releasing) : (meterAdvance v fZero).Releasing := by
  rw [meterAdvance_silence h]
  exact ⟨h.coef, not_flt_zero_fmul_unit h.level h.coef⟩

theorem Meter.Releasing.attack {v : Meter cfg} {val : F32} (h : v.Undisturbed) (hgt : fgt val v.level = true) :
    (meterAdvance v val).Releasing := by
  obtain ⟨hcoef, hlevel, -⟩ := h
  rw [meterAdvance_attack hgt]
  exact ⟨hcoef, not_flt_of_fle (fle_trans hlevel (fle_of_flt hgt))⟩

/-- One sample through a meter without a pre-filter: what a run of them needs of the state it reaches. -/
theorem exec_lmProc_direct {s : State} {m : Fin Config.NLM} (hpre : s.lm[m].presel = none) (rs : Reg) :
    ∃ u, exec (.lmProc (unitField m) rs) s = .next u ∧ u.x = s.x
      ∧ u.lm[m] = meterAdvance s.lm[m] (fabs s.x[rs]) :=
  ⟨_, execLmProc_direct (unitOf_nlm m) hpre rs, rfl, vector_set_self ..⟩

/-- Over k silent samples the hold count goes down by k and the peak stands. -/
theorem execAll_lmProc_silence (m : Fin Config.NLM) (rs : Reg) (k : Nat) (s : State) (hpre : s.lm[m].presel = none)
    (hrel : s.lm[m].Releasing) (hx : s.x[rs] = fZero) :
    ∃ t, execAll (List.replicate k (.lmProc (unitField m) rs)) s = .next t
      ∧ t.lm[m].hold.toNat = s.lm[m].hold.toNat - k ∧ t.lm[m].peak = s.lm[m].peak := by
  induction k generalizing s with
  | zero => exact ⟨s, rfl, rfl, rfl⟩
  | succ k ih =>
    obtain ⟨u, hexec, hux, hmeter⟩ := exec_lmProc_direct hpre rs
    rw [hx, show fabs fZero = fZero by decide] at hmeter
    have hrelease := meterAdvance_silence hrel
    obtain ⟨t, ht, hhold, hpeak⟩ := ih u (by rw [hmeter, hrelease]; exact hpre) (hmeter ▸ hrel.silence) (hux ▸ hx)
    refine ⟨t, by rw [List.replicate_succ, execAll, hexec]; exact ht, ?_, ?_⟩
    · have hlt := s.lm[m].hold.isLt
      rw [hhold, hmeter, hrelease, BitVec.toNat_ofNat]
      omega
    · rw [hpeak, hmeter, hrelease]

end Sys2Proof.Machine

namespace Sys2Proof.Proofs

open Sys2Proof.Machine Sys2Proof.Laws

/-- Settles O52: a meter that advances by a sample, and one whose coefficient is a pole. -/
theorem meterKeepsPeakAboveLevel : Obligations.MeterKeepsPeakAboveLevel := by
  refine ⟨fun s t m rs1 h hfin ht => ?step, fun v fs hmin hmax hcoef hlevel hpeak => ?zeroed⟩
  case step =>
    obtain ⟨val, hval⟩ := lm_of_execLmProc (unitOf_nlm m) ht
    rw [hval]
    exact meterAdvance_undisturbed h hfin val
  case zeroed =>
    have hrate : positiveFinite (u2f fs) = true := positiveFinite_u2f (by omega) (by omega)
    unfold Meter.Undisturbed
    rw [hcoef, hlevel, hpeak]
    exact ⟨meterCoef_inRange hrate v.fcs, by decide, by decide⟩

/-- Settles O53: the attack loads the hold time, and the run of silence counts it down. -/
theorem peakIsHeldForTheHoldTime : Obligations.PeakIsHeldForTheHoldTime := by
  intro s m rd rs1 rs2 k hund hpre hgt hx
  obtain ⟨u, hexec, hux, hmeter⟩ := exec_lmProc_direct hpre rs1
  have hattack := meterAdvance_attack hgt
  obtain ⟨t, ht, hcount, hkept⟩ := execAll_lmProc_silence m rs2 k u (by rw [hmeter, hattack]; exact hpre)
    (hmeter ▸ .attack hund hgt) (hux ▸ hx)
  have hhold : t.lm[m].hold.toNat = s.lm[m].holdCfg.toNat - k := by rw [hcount, hmeter, hattack]
  have hpeak : t.lm[m].peak = fabs s.x[rs1] := by rw [hkept, hmeter, hattack]
  have hread : ∀ sel, exec (.lmRd rd (unitField m) sel) t
      = .next { t with x := t.x.set rd (meterReading t.lm[m] sel), pc := t.pc + 1 } :=
    fun sel => execLmRd_unit (unitOf_nlm m) rd sel
  have hzero : t.lm[m].hold = 0#32 ↔ ¬ k < s.lm[m].holdCfg.toNat := by
    rw [← BitVec.toNat_inj, hhold, BitVec.toNat_ofNat]
    omega
  refine ⟨t, by rw [execAll, hexec]; exact ht, hhold, hpeak, ?peak, fun hk => ?peakDb⟩
  case peak =>
    have hvalue : meterReading t.lm[m] .peak = if k < s.lm[m].holdCfg.toNat then fabs s.x[rs1] else 0x00000000#32 :=
      (if_congr hzero rfl hpeak).trans (ite_not ..)
    rw [hread, hvalue]
  case peakDb =>
    have hvalue : meterReading t.lm[m] .peakDb = 0xC2C00000#32 := if_pos (hzero.2 (not_lt.2 hk))
    rw [hread, hvalue]

/-- Settles O49: the equations of LM.CFG, with the selector its field names, and of LM.RST. -/
theorem meterConfigureAndReset : Obligations.MeterConfigureAndReset := by
  intro s m rs1 presel hold
  refine ⟨fun h => ?_, execLmRst_unit (unitOf_nlm m)⟩
  obtain ⟨pre, hpre, hcode⟩ := preselOf_spec (cfg := Config.default) presel h
  exact ⟨pre, hcode, execLmCfg_unit (unitOf_nlm m) hpre rs1 hold⟩

/-- Settles O50: the equation of LM.PROC without and with a pre-filter. -/
theorem meterStepAttacksAtOnceAndDecays : Obligations.MeterStepAttacksAtOnceAndDecays := by
  intro s m rs1 v after
  have hafter : ∀ measured, after measured = meterAdvance v (fabs measured) :=
    fun measured => (meterAdvance_eq v (fabs measured)).symm
  refine ⟨fun hpre => ?direct, fun u hpre rd => ⟨_, execBqProc_unit (unitOf_nbq u) rd rs1, ?prefiltered⟩⟩
  case direct =>
    rw [hafter]
    exact execLmProc_direct (unitOf_nlm m) hpre rs1
  case prefiltered =>
    rw [hafter, advance_x, setX_x, vector_set_self]
    exact execLmProc_prefiltered (unitOf_nlm m) hpre rs1

/-- Settles O51: the equation of LM.RD at each selector, and the clamp of the decibel readings. -/
theorem meterReadingsFollowTheirSelectors : Obligations.MeterReadingsFollowTheirSelectors := by
  intro s m rd v reads dec
  have hread : ∀ sel, reads sel (meterReading v sel) := fun sel => execLmRd_unit (unitOf_nlm m) rd sel
  exact ⟨hread .level, hread .peak, hread .levelDb, hread .peakDb, hread .hold, hread .light,
    fun w => clampf_inRange (by decide)⟩

end Sys2Proof.Proofs
end

section
/-! SUPPORT. The reverberator's control commands (spec/45_reverberator.md): the equation of each command, and the one-pole
bank after a preset and after a reset of the unit. -/

namespace Sys2Proof.Machine

variable {cfg : Params}

/-! ## RV.CHAR (R242) -/

/-- The field that holds a preset's number selects that preset, where the field can hold every preset's number. -/
theorem presetOf_ofNat (hn : cfg.npreset ≤ 16) (p : Fin cfg.npreset) : presetOf cfg (BitVec.ofNat 4 p.val) = some p := by
  have hp : (BitVec.ofNat 4 p.val).toNat = p.val := by
    rw [BitVec.toNat_ofNat]
    omega
  simp only [presetOf, hp, p.isLt, dif_pos]

theorem execRvChar_preset {f : BitVec 4} {p : Fin cfg.npreset} (h : presetOf cfg f = some p) (s : State cfg) :
    execRvChar f s = .next (advance (applyPreset p s)) := by
  simp only [execRvChar, h, complete]

theorem applyPreset_op (p : Fin cfg.npreset) (s : State cfg) (u : Fin cfg.nop) :
    (applyPreset p s).op[u] = presetOnePole cfg p s.fsf u.val s.op[u] := Vector.getElem_mapFinIdx _

/-- A unit that the preset gives no cutoff is kept whole. -/
theorem presetOnePole_of_le (p : Fin cfg.npreset) (fsf : F32) {u : Nat} (hu : 5 ≤ u) (o : OnePole) :
    presetOnePole cfg p fsf u o = o := by
  match u, hu with
  | n + 5, _ => rfl

/-- A borrowed unit takes the preset's cutoff, with the coefficient of its new cutoff. -/
theorem presetOnePole_of_lt (p : Fin cfg.npreset) (fsf : F32) {u : Nat} (hu : u < 5) (o : OnePole) :
    presetCutoff cfg p u = some (presetOnePole cfg p fsf u o).fc
      ∧ (presetOnePole cfg p fsf u o).a0 = onePoleA0 cfg (presetOnePole cfg p fsf u o).fc fsf := by
  match u, hu with
  | 0, _ | 1, _ | 2, _ | 3, _ | 4, _ => exact ⟨rfl, rfl⟩

theorem presetOnePole_z1 (p : Fin cfg.npreset) (fsf : F32) (u : Nat) (o : OnePole) :
    (presetOnePole cfg p fsf u o).z1 = o.z1 := by
  unfold presetOnePole
  split <;> rfl

/-! ## RV.RST (R255) -/

theorem clearReverb_unit (s : State cfg) (u : Fin cfg.nop) :
    (clearReverb s).op[u] = if u.val < 5 then { s.op[u] with z1 := fZero } else s.op[u] := Vector.getElem_mapFinIdx _

end Sys2Proof.Machine

namespace Sys2Proof.Proofs

open Sys2Proof.Machine

/-- Settles O54: the equation of RV.CHAR, and the one-pole bank unit by unit. -/
theorem characterPresetIsAppliedWhole : Obligations.CharacterPresetIsAppliedWhole := by
  intro s p
  have hunit := applyPreset_op p s
  refine ⟨advance (applyPreset p s), execRvChar_preset (presetOf_ofNat (by decide) p) s, rfl, ?cutoffs, fun u => ?units⟩
  case cutoffs =>
    have hfc : ∀ u : Fin 5, (advance (applyPreset p s)).op[u].fc = (presetOnePole Config.default p s.fsf u s.op[u]).fc :=
      fun u => congrArg OnePole.fc (hunit (Config.default.borrowed u))
    simp only [hfc]
    rfl
  case units =>
    rw [advance_op, hunit]
    exact ⟨presetOnePole_z1 .., fun h => (presetOnePole_of_lt p s.fsf h _).2, fun h => presetOnePole_of_le p s.fsf h _⟩

/-- Settles O55: one equation per selector, the knobs of TONE by its two halves, and RV.ETIME. -/
theorem reverbControlsSetTheirRegisters : Obligations.ReverbControlsSetTheirRegisters := by
  intro s rs1 q c sets
  have htone : sets .tone { s.rv with tone := c, klow := toneKlow c, khigh := toneKhigh c, kpass := toneKpass c } := rfl
  refine ⟨?tone, rfl, rfl, rfl, rfl, rfl, rfl⟩
  unfold toneKlow toneKhigh toneKpass at htone
  by_cases hlow : fle c fHalf = true
  · rw [if_pos hlow]
    simpa only [if_pos hlow] using htone
  · rw [if_neg hlow]
    simpa only [if_neg hlow] using htone

/-- Settles O60: the cleared line, the line that is kept, and the one-pole bank unit by unit. -/
theorem reverbResetClearsItsRunningState : Obligations.ReverbResetClearsItsRunningState := by
  intro s
  exact ⟨advance (clearReverb s), rfl, rfl, memRead_clearLine_same s 0, clearLine_dp s 0,
    clearLine_other s (d := 0) (e := 1) (by decide), clearReverb_unit s⟩

end Sys2Proof.Proofs
end

section
/-! SUPPORT. The bound on a sum of a positive and a non-negative number (spec/00_scope.md R23), and the range of the
reverberator's feedback coefficients (spec/45_reverberator.md R243, R246). -/

namespace Sys2Proof.Machine

open Sys2Proof.Laws

/-! ## Sums of non-negative numbers -/

section

variable {a b c : F32}

/-- Without signs, the order is that of the magnitude bits. -/
theorem fle_of_fmag_le (ha : fsign a = false) (hb : fsign b = false) (hfin : isFinite b = true)
    (h : fmag a ≤ fmag b) : fle a b = true := by
  have horder : ∀ {x : F32}, fsign x = false → forder x = fmag x := fun hx => by rw [forder, hx]; rfl
  refine fle_iff.2 ⟨isNaN_of_isFinite (isFinite_of_fmag_le h hfin), isNaN_of_isFinite hfin, ?_⟩
  rw [horder ha, horder hb]
  exact Int.ofNat_le.2 h

/-- A number that is not negative has its magnitude for a value. -/
theorem fvalue_of_nonneg (h : fle fZero a = true) : fvalue a = funits a := by
  cases hz : isZero a
  · exact fvalue_of_noSign (fsign_of_positive h hz)
  · have hval := fvalue_eq_zero_iff.2 hz
    rw [← natAbs_fvalue, hval]
    rfl

/-- Adding a number that is not negative to a positive one stays at or above it, and within a bound on the exact sum. -/
theorem fadd_inRange (ha : positiveFinite a = true) (hb : fle fZero b = true) (hbfin : isFinite b = true)
    (hc : positiveFinite c = true) (hsum : funits a + funits b ≤ funits c) : inRange a c (fadd a b) := by
  obtain ⟨hafin, haz, has⟩ := positiveFinite_iff.1 ha
  obtain ⟨hcfin, -, hcs⟩ := positiveFinite_iff.1 hc
  have hpos := funits_pos haz
  have hval : fvalue a + fvalue b = ((funits a + funits b : Nat) : Int) := by
    rw [fvalue_of_noSign has, fvalue_of_nonneg hb, Nat.cast_add]
  have hround : fadd a b = pack false (roundMag (funits a + funits b) 1) := by
    rw [fadd_finite hafin hbfin, hval, if_neg (by omega), Int.natAbs_natCast,
      decide_eq_false (not_lt.2 (Int.natCast_nonneg _))]
  have hhigh : roundMag (funits a + funits b) 1 ≤ fmag c := roundMag_le Nat.one_pos (by rwa [Nat.mul_one])
  have hlow : fmag a ≤ roundMag (funits a + funits b) 1 :=
    le_roundMag Nat.one_pos (fmag_le_infMag hafin) (by rw [Nat.mul_one]; exact Nat.le_add_right ..)
  rw [← fmag_pack_roundMag false, ← hround] at hhigh hlow
  have hsign : fsign (fadd a b) = false := by rw [hround, fsign_pack_roundMag]
  exact ⟨fle_of_fmag_le has hsign (isFinite_of_fmag_le hhigh hcfin) hlow, fle_of_fmag_le hsign hcs hcfin hhigh⟩

end

/-! ## Feedback coefficients -/

/-- At the defaults the size law keeps KRT between KRT_MIN = 0.25 and KRT_MIN + KRT_SPAN = 0.875 (R246). -/
theorem sizeKrt_inRange {v : F32} (h : inRange fZero fOne v) :
    inRange 0x3E800000#32 0x3F600000#32 (sizeKrt Config.default v) := by
  have hspan : isFinite 0x3F200000#32 = true ∧ fle fZero 0x3F200000#32 = true := by decide
  have hnonneg : fle fZero (fmul 0x3F200000#32 v) = true := fle_zero_fmul_unit hspan.2 hspan.1 h
  have hmag := fmag_fmul_le_left hspan.1 (fmag_le_of_unit h)
  have hsum : funits 0x3E800000#32 + funits 0x3F200000#32 ≤ funits 0x3F600000#32 := by decide
  have hunits := funits_le_of_fmag_le hmag
  have hkrt : sizeKrt Config.default v = fadd 0x3E800000#32 (fmul 0x3F200000#32 v) :=
    congrArg (fadd 0x3E800000#32) (fmul_comm (isFinite_of_unit h) hspan.1)
  rw [hkrt]
  exact fadd_inRange (by decide) hnonneg (isFinite_of_fmag_le hmag hspan.1) (by decide)
    ((Nat.add_le_add_left hunits _).trans hsum)

/-- Both presets' allpass coefficients have magnitude at most KMAX = 63/64 (R243). -/
theorem preset_coefficients_inRange : ∀ p : Fin Config.NPRESET,
    inRange 0xBF7C0000#32 0x3F7C0000#32 (Config.default.preset p).kap
      ∧ inRange 0xBF7C0000#32 0x3F7C0000#32 (Config.default.preset p).kcomb := by decide

end Sys2Proof.Machine

namespace Sys2Proof.Proofs

open Sys2Proof.Machine

/-- Settles O56: KRT by the size law, KFB by its clamp, KAP and KCOMB by the table of presets. -/
theorem reverbFeedbackCoefficientsAreBounded : Obligations.ReverbFeedbackCoefficientsAreBounded := by
  intro s hs
  obtain ⟨-, -, hkap, hkcomb, -, -, -, -, hsize, hkrt, hkfb, -⟩ := hs
  obtain ⟨hkapBound, hkcombBound⟩ := preset_coefficients_inRange s.rv.preset
  rw [hkrt, hkap, hkcomb]
  exact ⟨sizeKrt_inRange hsize, hkfb, hkapBound, hkcombBound⟩

end Sys2Proof.Proofs
end

section
/-! SUPPORT. One sample through the reverberator (spec/45_reverberator.md R248 to R253): the delay lines and the one-pole
bank stage by stage, and the sections in the order of their regions, each tap read before a later store reaches it. -/

namespace Sys2Proof.Machine

variable {cfg : Params} {s t r : State cfg}

/-! ## The stages -/

/-- The state and the sample after stage 2. -/
def diffused (s : State cfg) (v : F32) : State cfg × F32 := rvDiffuse (rvTone s v).1 (rvTone s v).2

/-- The state after stage 3. -/
def combed (s : State cfg) (v : F32) : State cfg := rvCombs (diffused s v).1 (diffused s v).2

/-- One sample through the reverberator, by the states between its stages (R248). -/
theorem reverbStep_eq (s : State cfg) (v : F32) :
    reverbStep s v =
      let echo := rvEcho (combed s v) (rvTone s v).2
      (echo.1, rvMix s.rv v (combed s v).rv.yl echo.2.1, rvMix s.rv v (combed s v).rv.yr echo.2.2) := rfl

/-- The tap of a region's section: the cell at the region's end (R244, R252). -/
def regionTap (s : State cfg) (g : Fin 7) : F32 := readOffset s cfg.line0 (regionEnd s g)

theorem regionAllpass_eq (s : State cfg) (g : Fin 7) (k acc : F32) :
    regionAllpass s g k acc =
      (writeOffset s cfg.line0 (regionStart s g) (allpassStore acc (regionTap s g) k),
        allpassOut (allpassStore acc (regionTap s g) k) (regionTap s g) k) := rfl

/-! ## The delay lines -/

/-- The lines of `b` are those of `a` but for cells of line 0: no cursor moves. -/
structure CellsOfLine0 (a b : Vector DelayLine cfg.ndl) : Prop where
  cursor : b[cfg.line0].dp = a[cfg.line0].dp
  others : ∀ d : Fin cfg.ndl, d ≠ cfg.line0 → b[d] = a[d]

theorem CellsOfLine0.trans {a b c : Vector DelayLine cfg.ndl} (hab : CellsOfLine0 a b) (hbc : CellsOfLine0 b c) :
    CellsOfLine0 a c where
  cursor := hbc.cursor.trans hab.cursor
  others d hd := (hbc.others d hd).trans (hab.others d hd)

theorem cellsOfLine0_writeOffset (s : State cfg) (off : Nat) (v : Word) :
    CellsOfLine0 s.dl (writeOffset s cfg.line0 off v).dl where
  cursor := memWrite_dp s cfg.line0 cfg.line0 _ v
  others _ hd := vector_set_of_ne s.dl _ hd

theorem cellsOfLine0_rvDiffuse (s : State cfg) (x : F32) : CellsOfLine0 s.dl (rvDiffuse s x).1.dl :=
  (((cellsOfLine0_writeOffset ..).trans (cellsOfLine0_writeOffset ..)).trans (cellsOfLine0_writeOffset ..)).trans
    (cellsOfLine0_writeOffset ..)

theorem cellsOfLine0_rvCombs (s : State cfg) (d : F32) : CellsOfLine0 s.dl (rvCombs s d).dl :=
  (cellsOfLine0_writeOffset (combInputs s d).1 _ _).trans (cellsOfLine0_writeOffset ..)

theorem cellsOfLine0_rvEcho (s : State cfg) (x : F32) : CellsOfLine0 s.dl (rvEcho s x).1.dl :=
  cellsOfLine0_writeOffset (lowpass s (cfg.borrowed 4) (echoTap s s.rv.etime.toNat)).1 _ _

theorem rvTone_dl (s : State cfg) (v : F32) : (rvTone s v).1.dl = (rotate s cfg.line0).dl := rfl

/-- After the rotation RV.PROC changes the delay memory in cells of line 0 only. -/
theorem cellsOfLine0_reverbStep (s : State cfg) (v : F32) :
    CellsOfLine0 (rotate s cfg.line0).dl (reverbStep s v).1.dl := by
  rw [reverbStep_eq, ← rvTone_dl s v]
  exact ((cellsOfLine0_rvDiffuse (rvTone s v).1 (rvTone s v).2).trans
    (cellsOfLine0_rvCombs (diffused s v).1 (diffused s v).2)).trans (cellsOfLine0_rvEcho (combed s v) (rvTone s v).2)

/-! ## The one-pole bank -/

/-- Advancing a borrowed unit gives it the new history. -/
theorem setOpZ1_op_self (s : State cfg) (u : Fin cfg.nop) (z : F32) :
    (setOpZ1 s u z).op[u] = { s.op[u] with z1 := z } := vector_set_self ..

/-- Advancing a borrowed unit leaves the units from 5 on as they were. -/
theorem setOpZ1_op_of_le (s : State cfg) (w : Fin 5) (z : F32) {u : Fin cfg.nop} (hu : 5 ≤ u.val) :
    (setOpZ1 s (cfg.borrowed w) z).op[u] = s.op[u] :=
  vector_set_of_ne s.op _ fun he => absurd (congrArg Fin.val he ▸ hu) (Nat.not_le.2 w.isLt)

/-- Two borrowed units advance side by side, each from its own history. -/
theorem lowpass_pair (s : State cfg) {u w : Fin 5} (h : u ≠ w) (x y : F32) :
    let t := (lowpass (lowpass s (cfg.borrowed u) x).1 (cfg.borrowed w) y).1
    t.op[cfg.borrowed u].z1 = onePoleNext s.op[cfg.borrowed u] x
      ∧ t.op[cfg.borrowed w].z1 = onePoleNext s.op[cfg.borrowed w] y := by
  simp only [lowpass_eq]
  rw [setOpZ1_op_of_ne _ _ h, setOpZ1_op_self, setOpZ1_op_self, setOpZ1_op_of_ne _ _ h.symm]
  exact ⟨rfl, rfl⟩

/-- Stage 1 advances units 0 and 1 with the sample (R250). -/
theorem rvTone_units (s : State cfg) (v : F32) :
    (rvTone s v).1.op[cfg.borrowed 0].z1 = onePoleNext s.op[cfg.borrowed 0] v
      ∧ (rvTone s v).1.op[cfg.borrowed 1].z1 = onePoleNext s.op[cfg.borrowed 1] v :=
  lowpass_pair (rotate s cfg.line0) (by decide) v v

/-- The tone blend, from the histories that stage 1 leaves (R250). -/
theorem rvTone_blend (s : State cfg) (v : F32) :
    (rvTone s v).2 = fadd (fadd (fmul (rvTone s v).1.op[cfg.borrowed 0].z1 s.rv.klow)
      (fmul (fsub v (rvTone s v).1.op[cfg.borrowed 1].z1) s.rv.khigh)) (fmul v s.rv.kpass) := by
  obtain ⟨hlow, hhigh⟩ := rvTone_units s v
  rw [hlow, hhigh]
  simp only [rvTone, lowpass_eq, highpass_eq]
  rw [setOpZ1_op_of_ne _ _ (by decide)]
  rfl

theorem rvCombs_bank (s : State cfg) (d : F32) : (rvCombs s d).op = (combInputs s d).1.op := by
  simp only [rvCombs_eq, regionAllpass_eq, writeOffset_op]

/-- Stage 3 advances units 2 and 3, each with the other channel's previous output (R249). -/
theorem rvCombs_units (s : State cfg) (d : F32) :
    (rvCombs s d).op[cfg.borrowed 2].z1 = onePoleNext s.op[cfg.borrowed 2] s.rv.yr
      ∧ (rvCombs s d).op[cfg.borrowed 3].z1 = onePoleNext s.op[cfg.borrowed 3] s.rv.yl := by
  rw [rvCombs_bank]
  exact lowpass_pair s (by decide) s.rv.yr s.rv.yl

theorem rvCombs_op (s : State cfg) (d : F32) {u : Fin 5} (h2 : u ≠ 2) (h3 : u ≠ 3) :
    (rvCombs s d).op[cfg.borrowed u] = s.op[cfg.borrowed u] := by
  rw [rvCombs_bank]
  exact (setOpZ1_op_of_ne _ _ h3).trans (setOpZ1_op_of_ne _ _ h2)

theorem rvCombs_op_of_le (s : State cfg) (d : F32) {u : Fin cfg.nop} (hu : 5 ≤ u.val) :
    (rvCombs s d).op[u] = s.op[u] := by
  rw [rvCombs_bank]
  exact (setOpZ1_op_of_le _ 3 _ hu).trans (setOpZ1_op_of_le _ 2 _ hu)

/-- Stage 4 advances unit 4 with the main echo tap (R251). -/
theorem rvEcho_unit (s : State cfg) (x : F32) :
    (rvEcho s x).1.op[cfg.borrowed 4].z1 = onePoleNext s.op[cfg.borrowed 4] (echoTap s s.rv.etime.toNat) :=
  congrArg OnePole.z1 (setOpZ1_op_self ..)

/-- The echo outputs are the means of the main tap and a later one (R251). -/
theorem rvEcho_taps (s : State cfg) (x : F32) :
    (rvEcho s x).2 = (fmul (fadd (echoTap s s.rv.etime.toNat) (echoTap s (2 * s.rv.etime.toNat / 3))) fHalf,
      fmul (fadd (echoTap s s.rv.etime.toNat) (echoTap s (s.rv.etime.toNat / 3))) fHalf) := rfl

theorem rvEcho_op (s : State cfg) (x : F32) {u : Fin 5} (h : u ≠ 4) :
    (rvEcho s x).1.op[cfg.borrowed u] = s.op[cfg.borrowed u] := setOpZ1_op_of_ne _ _ h

/-! ## The sections -/

/-- What a section that stored `w g` in region `g` answers, its tap read in `r`. -/
def regionOut (r : State cfg) (w : Fin 7 → F32) (k : F32) (g : Fin 7) : F32 := allpassOut (w g) (regionTap r g) k

theorem readOffset_congr (h : t.dl = s.dl) (d : Fin cfg.ndl) (off : Nat) : readOffset t d off = readOffset s d off := by
  unfold readOffset memRead dlIndex
  rw [h]

/-- A store leaves the other offsets of its line. -/
theorem readOffset_writeOffset_of_ne (s : State cfg) (d : Fin cfg.ndl) {a b : Nat} (v : Word) (ha : a < cfg.cap d)
    (hb : b < cfg.cap d) (h : a ≠ b) : readOffset (writeOffset s d b v) d a = readOffset s d a := by
  have hne : dlIndex s d a ≠ dlIndex s d b := by
    rcases h.lt_or_gt with hlt | hgt
    · exact dlIndex_ne s d hlt (by omega)
    · exact (dlIndex_ne s d hgt (by omega)).symm
  rw [readOffset, dlIndex_writeOffset]
  exact memRead_memWrite_other_cell s d v hne

theorem LayoutRises.strictMono (h : LayoutRises r) : StrictMono fun i : Fin 8 => r.rv.s[i].toNat :=
  Fin.strictMono_iff_lt_succ.2 fun g => (h g).1

theorem LayoutRises.start_lt_cap (h : LayoutRises r) (g : Fin 7) : regionStart r g < cfg.cap cfg.line0 :=
  (h g).1.trans_le (h g).2

theorem LayoutRises.end_bounds (h : LayoutRises r) (g : Fin 7) :
    regionStart r g ≤ regionEnd r g ∧ regionEnd r g < cfg.cap cfg.line0 := by
  obtain ⟨hrise, htop⟩ := h g
  unfold regionEnd
  omega

/-- `t` is reached from `r` by the sections of the regions below `g`, which stored the values `w`: the offsets from region
`g` on read as they did. -/
structure SectionsDone (r : State cfg) (w : Fin 7 → F32) (g : Fin 8) (t : State cfg) : Prop where
  layout : t.rv.s = r.rv.s
  later : ∀ off, r.rv.s[g].toNat ≤ off → off < cfg.cap cfg.line0 →
    readOffset t cfg.line0 off = readOffset r cfg.line0 off
  lines : r.LineInv → t.LineInv
  stored : r.LineInv → ∀ h : Fin 7, h.castSucc < g → readOffset t cfg.line0 (regionStart r h) = w h

section

variable {w : Fin 7 → F32} {u : State cfg} {g : Fin 7}

theorem sectionsDone_zero (hdl : t.dl = r.dl) (hs : t.rv.s = r.rv.s) : SectionsDone r w 0 t where
  layout := hs
  later off _ _ := readOffset_congr hdl cfg.line0 off
  lines h := by
    unfold State.LineInv
    rwa [hdl]
  stored _ h hlt := absurd hlt (Fin.not_lt_zero _)

/-- The other registers do not matter. -/
theorem SectionsDone.congr {n : Fin 8} (h : SectionsDone r w n t) (hdl : u.dl = t.dl) (hs : u.rv.s = t.rv.s) :
    SectionsDone r w n u where
  layout := hs.trans h.layout
  later off hn hcap := (readOffset_congr hdl cfg.line0 off).trans (h.later off hn hcap)
  lines hr := by
    unfold State.LineInv
    rw [hdl]
    exact h.lines hr
  stored hr i hlt := (readOffset_congr hdl cfg.line0 _).trans (h.stored hr i hlt)

theorem SectionsDone.start_eq {n : Fin 8} (h : SectionsDone r w n t) (i : Fin 7) : regionStart t i = regionStart r i := by
  rw [regionStart, regionStart, h.layout]

/-- The next region's tap still reads what it read in `r`. -/
theorem SectionsDone.tap_eq (h : SectionsDone r w g.castSucc t) (hlay : LayoutRises r) : regionTap t g = regionTap r g := by
  obtain ⟨hle, hlt⟩ := hlay.end_bounds g
  have hend : regionEnd t g = regionEnd r g := by rw [regionEnd, regionEnd, h.layout]
  rw [regionTap, regionTap, hend]
  exact h.later _ hle hlt

/-- The store of the next region: it leaves the later offsets, and the values stored before it. -/
theorem SectionsDone.store (h : SectionsDone r w g.castSucc t) (hlay : LayoutRises r) :
    SectionsDone r w g.succ (writeOffset t cfg.line0 (regionStart t g) (w g)) where
  layout := h.layout
  later off hn hcap := by
    have hrise : regionStart r g < off := (hlay g).1.trans_le hn
    rw [h.start_eq, readOffset_writeOffset_of_ne t _ _ hcap (hlay.start_lt_cap g) hrise.ne']
    exact h.later off hrise.le hcap
  lines hr := lineInv_writeOffset t _ _ _ (h.lines hr)
  stored hr i hi := by
    rw [h.start_eq]
    rcases (Fin.castSucc_lt_succ_iff.1 hi).lt_or_eq with hlt | rfl
    · have hrise : regionStart r i < regionStart r g := hlay.strictMono hlt
      rw [readOffset_writeOffset_of_ne t _ _ (hlay.start_lt_cap i) (hlay.start_lt_cap g) hrise.ne]
      exact h.stored hr i hlt
    · exact readOffset_writeOffset_same (h.lines hr) _ _ _

/-- The section of the next region, which reads its tap before it stores (R252). -/
theorem SectionsDone.allpass (h : SectionsDone r w g.castSucc t) (hlay : LayoutRises r) {k acc : F32}
    (hw : w g = allpassStore acc (regionTap r g) k) :
    SectionsDone r w g.succ (regionAllpass t g k acc).1 ∧ (regionAllpass t g k acc).2 = regionOut r w k g := by
  rw [regionAllpass_eq, h.tap_eq hlay, ← hw]
  exact ⟨h.store hlay, rfl⟩

/-! ## The stages by their sections -/

/-- Stage 2: the four diffuser sections in series (R252). -/
theorem SectionsDone.rvDiffuse {x : F32} (h : SectionsDone r w 0 t) (hlay : LayoutRises r)
    (h0 : w 0 = allpassStore x (regionTap r 0) t.rv.kap)
    (h1 : w 1 = allpassStore (regionOut r w t.rv.kap 0) (regionTap r 1) t.rv.kap)
    (h2 : w 2 = allpassStore (regionOut r w t.rv.kap 1) (regionTap r 2) t.rv.kap)
    (h3 : w 3 = allpassStore (regionOut r w t.rv.kap 2) (regionTap r 3) t.rv.kap) :
    SectionsDone r w 4 (rvDiffuse t x).1 ∧ (rvDiffuse t x).2 = regionOut r w t.rv.kap 3 := by
  obtain ⟨d0, e0⟩ := h.allpass (g := 0) hlay h0
  rw [← e0] at h1
  obtain ⟨d1, e1⟩ := d0.allpass (g := 1) hlay h1
  rw [← e1] at h2
  obtain ⟨d2, e2⟩ := d1.allpass (g := 2) hlay h2
  rw [← e2] at h3
  exact d2.allpass (g := 3) hlay h3

/-- The accumulators of the combs: the sample and the other channel's damped previous output (R249). -/
theorem combInputs_sums (s : State cfg) (d : F32) :
    (combInputs s d).2 = (fadd d (fmul (onePoleNext s.op[cfg.borrowed 2] s.rv.yr) s.rv.krt),
      fadd d (fmul (onePoleNext s.op[cfg.borrowed 3] s.rv.yl) s.rv.krt)) := by
  simp only [combInputs, lowpass_eq]
  rw [setOpZ1_op_of_ne s _ (by decide)]

/-- Stage 3: the two combs side by side (R249). -/
theorem SectionsDone.rvCombs {d : F32} (h : SectionsDone r w 4 t) (hlay : LayoutRises r)
    (hL : w 4 = allpassStore (fadd d (fmul (onePoleNext t.op[cfg.borrowed 2] t.rv.yr) t.rv.krt)) (regionTap r 4) t.rv.kcomb)
    (hR : w 5 = allpassStore (fadd d (fmul (onePoleNext t.op[cfg.borrowed 3] t.rv.yl) t.rv.krt)) (regionTap r 5)
      t.rv.kcomb) :
    SectionsDone r w 6 (rvCombs t d) ∧ (rvCombs t d).rv.yl = regionOut r w t.rv.kcomb 4
      ∧ (rvCombs t d).rv.yr = regionOut r w t.rv.kcomb 5 := by
  have hstart : SectionsDone r w 4 (combInputs t d).1 := h.congr (combInputs_dl t d) rfl
  obtain ⟨d4, e4⟩ := hstart.allpass (g := 4) hlay hL
  obtain ⟨d5, e5⟩ := d4.allpass (g := 5) hlay hR
  rw [rvCombs_eq, combInputs_sums]
  exact ⟨d5.congr rfl rfl, e4, e5⟩

/-- An echo tap inside the line reads what it read in `r`. -/
theorem SectionsDone.echoTap_eq (h : SectionsDone r w 6 t) {time : Nat}
    (hin : regionStart r 6 + time / 4096 + 1 < cfg.cap cfg.line0) : echoTap t time = echoTap r time := by
  have hcell : (regionStart r 6 * 4096 + time) / 4096 = regionStart r 6 + time / 4096 := by omega
  have hread : ∀ off, regionStart r 6 ≤ off → off ≤ regionStart r 6 + time / 4096 + 1 →
      readOffset t cfg.line0 off = readOffset r cfg.line0 off := fun off hn htop => h.later off hn (by omega)
  rw [echoTap, echoTap, h.start_eq, readInterpolated_eq, readInterpolated_eq, hcell, hread _ (by omega) (by omega),
    hread _ (by omega) (by omega)]

/-- Stage 4: the store of the filtered feedback (R251). -/
theorem SectionsDone.rvEcho {x : F32} (h : SectionsDone r w 6 t) (hlay : LayoutRises r)
    (hw : w 6 = fadd x (fmul (onePoleNext t.op[cfg.borrowed 4] (echoTap t t.rv.etime.toNat)) t.rv.kfb)) :
    SectionsDone r w 7 (rvEcho t x).1 := by
  have hstart : SectionsDone r w 6 (lowpass t (cfg.borrowed 4) (echoTap t t.rv.etime.toNat)).1 := h.congr rfl rfl
  have hstore := hstart.store (g := 6) hlay
  rw [hw] at hstore
  exact hstore

end

/-! ## The whole step -/

/-- The values the sections store, region by region, from the taps after the rotation, the tone blend, the two damped
feedbacks of the combs and the filtered echo (R249, R251, R252). -/
def sectionValues (s : State cfg) (blend dampL dampR echo : F32) : Fin 7 → F32 :=
  let tap := regionTap (rotate s cfg.line0)
  let w0 := allpassStore blend (tap 0) s.rv.kap
  let w1 := allpassStore (allpassOut w0 (tap 0) s.rv.kap) (tap 1) s.rv.kap
  let w2 := allpassStore (allpassOut w1 (tap 1) s.rv.kap) (tap 2) s.rv.kap
  let w3 := allpassStore (allpassOut w2 (tap 2) s.rv.kap) (tap 3) s.rv.kap
  let d := allpassOut w3 (tap 3) s.rv.kap
  ![w0, w1, w2, w3, allpassStore (fadd d (fmul dampL s.rv.krt)) (tap 4) s.rv.kcomb,
    allpassStore (fadd d (fmul dampR s.rv.krt)) (tap 5) s.rv.kcomb, fadd blend (fmul echo s.rv.kfb)]

section

variable (s : State cfg) (blend dampL dampR echo : F32)

theorem sectionValues_zero :
    sectionValues s blend dampL dampR echo 0 = allpassStore blend (regionTap (rotate s cfg.line0) 0) s.rv.kap := rfl

/-- Each diffuser section from the second on takes what the one before answers (R252). -/
theorem sectionValues_diffuser :
    let r := rotate s cfg.line0
    let w := sectionValues s blend dampL dampR echo
    w 1 = allpassStore (regionOut r w s.rv.kap 0) (regionTap r 1) s.rv.kap
      ∧ w 2 = allpassStore (regionOut r w s.rv.kap 1) (regionTap r 2) s.rv.kap
      ∧ w 3 = allpassStore (regionOut r w s.rv.kap 2) (regionTap r 3) s.rv.kap := by
  simp only [sectionValues, regionOut, Matrix.cons_val, and_self]

/-- Each comb takes the last diffuser's answer and the other channel's damped feedback (R249). -/
theorem sectionValues_comb :
    let r := rotate s cfg.line0
    let w := sectionValues s blend dampL dampR echo
    let d := regionOut r w s.rv.kap 3
    w 4 = allpassStore (fadd d (fmul dampL s.rv.krt)) (regionTap r 4) s.rv.kcomb
      ∧ w 5 = allpassStore (fadd d (fmul dampR s.rv.krt)) (regionTap r 5) s.rv.kcomb := by
  simp only [sectionValues, regionOut, Matrix.cons_val, and_self]

theorem sectionValues_echo :
    sectionValues s blend dampL dampR echo 6 = fadd blend (fmul echo s.rv.kfb) := rfl

end

/-- Between the stages the registers but YL and YR stand, and stage 2 advances no unit. -/
theorem rvDiffuse_rv (s : State cfg) (x : F32) : (rvDiffuse s x).1.rv = s.rv := by
  simp only [rvDiffuse, regionAllpass_eq, writeOffset_rv]

theorem rvDiffuse_op (s : State cfg) (x : F32) : (rvDiffuse s x).1.op = s.op := by
  simp only [rvDiffuse, regionAllpass_eq, writeOffset_op]

theorem diffused_rv (s : State cfg) (v : F32) : (diffused s v).1.rv = s.rv := rvDiffuse_rv (rvTone s v).1 _

theorem diffused_op (s : State cfg) (v : F32) : (diffused s v).1.op = (rvTone s v).1.op := rvDiffuse_op (rvTone s v).1 _

theorem reverbFrame_combed (s : State cfg) (v : F32) : ReverbFrame s (combed s v) :=
  ((reverbFrame_rvTone s v).trans (reverbFrame_rvDiffuse (rvTone s v).1 (rvTone s v).2)).trans
    (reverbFrame_rvCombs (diffused s v).1 (diffused s v).2)

theorem combed_registers (s : State cfg) (v : F32) :
    (combed s v).rv.s = s.rv.s ∧ (combed s v).rv.etime = s.rv.etime ∧ (combed s v).rv.kfb = s.rv.kfb := by
  obtain ⟨_, _, _, _, hrecord⟩ := (reverbFrame_combed s v).record
  rw [hrecord]
  exact ⟨rfl, rfl, rfl⟩

theorem combed_op (s : State cfg) (v : F32) {u : Fin 5} (h2 : u ≠ 2) (h3 : u ≠ 3) :
    (combed s v).op[cfg.borrowed u] = (rvTone s v).1.op[cfg.borrowed u] := by
  rw [combed, rvCombs_op _ _ h2 h3, diffused_op]

theorem reverbStep_op (s : State cfg) (v : F32) {u : Fin 5} (h : u ≠ 4) :
    (reverbStep s v).1.op[cfg.borrowed u] = (combed s v).op[cfg.borrowed u] := by
  rw [reverbStep_eq]
  exact rvEcho_op (combed s v) (rvTone s v).2 h

/-- The histories of the borrowed units after the step, each advanced once with its input (R249 to R251). -/
structure UnitsAdvanced (s : State cfg) (v : F32) (op : Vector OnePole cfg.nop) : Prop where
  low : op[cfg.borrowed 0].z1 = onePoleNext s.op[cfg.borrowed 0] v
  high : op[cfg.borrowed 1].z1 = onePoleNext s.op[cfg.borrowed 1] v
  dampL : op[cfg.borrowed 2].z1 = onePoleNext s.op[cfg.borrowed 2] s.rv.yr
  dampR : op[cfg.borrowed 3].z1 = onePoleNext s.op[cfg.borrowed 3] s.rv.yl
  echo : op[cfg.borrowed 4].z1 = onePoleNext s.op[cfg.borrowed 4] (echoTap (combed s v) s.rv.etime.toNat)

theorem reverbStep_units (s : State cfg) (v : F32) : UnitsAdvanced s v (reverbStep s v).1.op := by
  obtain ⟨hlow, hhigh⟩ := rvTone_units s v
  obtain ⟨hL, hR⟩ := rvCombs_units (diffused s v).1 (diffused s v).2
  rw [diffused_op, diffused_rv, rvTone_op s v (by decide) (by decide)] at hL hR
  constructor
  case low => rw [reverbStep_op s v (by decide), combed_op s v (by decide) (by decide), hlow]
  case high => rw [reverbStep_op s v (by decide), combed_op s v (by decide) (by decide), hhigh]
  case dampL => rw [reverbStep_op s v (by decide), combed, hL]
  case dampR => rw [reverbStep_op s v (by decide), combed, hR]
  case echo =>
    obtain ⟨-, hetime, -⟩ := combed_registers s v
    rw [reverbStep_eq, rvEcho_unit, combed_op s v (by decide) (by decide), rvTone_op s v (by decide) (by decide), hetime]

/-- The tone blend, from the histories that the step leaves (R250). -/
theorem reverbStep_blend (s : State cfg) (v : F32) :
    (rvTone s v).2 = fadd (fadd (fmul (reverbStep s v).1.op[cfg.borrowed 0].z1 s.rv.klow)
      (fmul (fsub v (reverbStep s v).1.op[cfg.borrowed 1].z1) s.rv.khigh)) (fmul v s.rv.kpass) := by
  obtain ⟨hlow, hhigh⟩ := rvTone_units s v
  rw [(reverbStep_units s v).low, (reverbStep_units s v).high, rvTone_blend, hlow, hhigh]

/-- The units from 5 on are not the reverberator's. -/
theorem reverbStep_op_of_le (s : State cfg) (v : F32) {u : Fin cfg.nop} (hu : 5 ≤ u.val) :
    (reverbStep s v).1.op[u] = s.op[u] := by
  have htone : (rvTone s v).1.op[u] = s.op[u] := (setOpZ1_op_of_le _ 1 _ hu).trans (setOpZ1_op_of_le _ 0 _ hu)
  have hcombs : (combed s v).op[u] = (diffused s v).1.op[u] :=
    rvCombs_op_of_le (diffused s v).1 (diffused s v).2 hu
  have hecho : (reverbStep s v).1.op[u] = (combed s v).op[u] := setOpZ1_op_of_le _ 4 _ hu
  rw [hecho, hcombs, diffused_op, htone]

theorem rvEcho_stored (hs : s.LineInv) (x : F32) :
    readOffset (rvEcho s x).1 cfg.line0 (regionStart s 6)
      = fadd x (fmul (rvEcho s x).1.op[cfg.borrowed 4].z1 s.rv.kfb) := by
  rw [rvEcho_unit]
  exact readOffset_writeOffset_same (s := (lowpass s (cfg.borrowed 4) (echoTap s s.rv.etime.toNat)).1) hs cfg.line0 _ _

/-- At the echo write point stands the tone blend plus the filtered feedback (R251). -/
theorem reverbStep_echoStored (hs : s.LineInv) (v : F32) :
    readOffset (reverbStep s v).1 cfg.line0 (regionStart s 6)
      = fadd (rvTone s v).2 (fmul (reverbStep s v).1.op[cfg.borrowed 4].z1 s.rv.kfb) := by
  obtain ⟨hlayout, -, hkfb⟩ := combed_registers s v
  have hstart : regionStart s 6 = regionStart (combed s v) 6 := by rw [regionStart, regionStart, hlayout]
  rw [hstart, ← hkfb]
  exact rvEcho_stored ((reverbFrame_combed s v).lines hs) (rvTone s v).2

/-- The boundaries that the invariants fix rise inside line 0 (R244). -/
theorem layoutRises_of_inv (hrate : s.RateInv) (hrev : s.ReverbInv) : LayoutRises s := by
  obtain ⟨-, hmax, -⟩ := hrate
  obtain ⟨hs, -⟩ := hrev
  have hreg : ∀ i : Fin 8, s.rv.s[i].toNat = boundary cfg s.rv.preset s.fs.toNat i.val := fun i => by
    rw [hs]
    exact layoutOf_toNat _ hmax i
  intro g
  have htop := boundary_mono s.rv.preset s.fs.toNat (show g.val + 1 ≤ 7 by omega)
  have hfit : boundary cfg s.rv.preset s.fs.toNat 7 ≤ cfg.cap cfg.line0 - 1 := cfg.boundary_le s.rv.preset hmax
  have hrise := boundary_succ (cfg := cfg) s.rv.preset s.fs.toNat g.val
  rw [regionStart, hreg, hreg, Fin.val_succ, Fin.val_castSucc]
  omega

theorem reverbStep_rv (s : State cfg) (v : F32) : (reverbStep s v).1.rv = (combed s v).rv := by
  rw [reverbStep_eq]
  rfl

/-- The sections of a step from a state whose regions rise: before the echo store, after it, and the combs' outputs, which
are the new YL and YR (R249, R251, R252). -/
theorem reverbStep_sections (hlay : LayoutRises s) (v : F32) :
    let op := (reverbStep s v).1.op
    let r := rotate s cfg.line0
    let w := sectionValues s (rvTone s v).2 op[cfg.borrowed 2].z1 op[cfg.borrowed 3].z1 op[cfg.borrowed 4].z1
    SectionsDone r w 6 (combed s v) ∧ SectionsDone r w 7 (reverbStep s v).1
      ∧ (combed s v).rv.yl = regionOut r w s.rv.kcomb 4 ∧ (combed s v).rv.yr = regionOut r w s.rv.kcomb 5 := by
  intro op r w
  have hunits := reverbStep_units s v
  have hrise : LayoutRises r := hlay.congr rfl
  have htone : SectionsDone r w 0 (rvTone s v).1 := sectionsDone_zero (rvTone_dl s v) rfl
  have hfirst : w 0 = allpassStore (rvTone s v).2 (regionTap r 0) s.rv.kap := sectionValues_zero ..
  obtain ⟨h1, h2, h3⟩ : w 1 = _ ∧ w 2 = _ ∧ w 3 = _ := sectionValues_diffuser ..
  obtain ⟨hL, hR⟩ : w 4 = _ ∧ w 5 = _ := sectionValues_comb ..
  obtain ⟨hdiffuse, hout⟩ := htone.rvDiffuse hrise hfirst h1 h2 h3
  have hcombs := SectionsDone.rvCombs (t := (diffused s v).1) (d := (diffused s v).2) hdiffuse hrise ?left ?right
  case left =>
    rw [diffused_op, diffused_rv, rvTone_op s v (by decide) (by decide), ← hunits.dampL, diffused, hout]
    exact hL
  case right =>
    rw [diffused_op, diffused_rv, rvTone_op s v (by decide) (by decide), ← hunits.dampR, diffused, hout]
    exact hR
  rw [diffused_rv] at hcombs
  obtain ⟨hcombed, hyl, hyr⟩ := hcombs
  refine ⟨hcombed, ?echo, hyl, hyr⟩
  rw [reverbStep_eq]
  obtain ⟨-, hetime, hkfb⟩ := combed_registers s v
  have hunit : (combed s v).op[cfg.borrowed 4] = s.op[cfg.borrowed 4] := by
    rw [combed_op s v (by decide) (by decide), rvTone_op s v (by decide) (by decide)]
  refine SectionsDone.rvEcho (t := combed s v) (x := (rvTone s v).2) hcombed hrise ?_
  rw [hunit, hetime, hkfb, ← hunits.echo]
  exact sectionValues_echo ..

/-- With the invariants the echo taps are inside the line: the unit's input and the two outputs are read after the
rotation (R251). -/
theorem reverbStep_echo (hrate : s.RateInv) (hrev : s.ReverbInv) (v : F32) :
    let echo := fun time : Nat => readInterpolated (rotate s cfg.line0) cfg.line0 (regionStart s 6 * 4096 + time)
    let time := s.rv.etime.toNat
    (reverbStep s v).1.op[cfg.borrowed 4].z1 = onePoleNext s.op[cfg.borrowed 4] (echo time)
      ∧ (rvEcho (combed s v) (rvTone s v).2).2 = (fmul (fadd (echo time) (echo (2 * time / 3))) fHalf,
        fmul (fadd (echo time) (echo (time / 3))) fHalf) := by
  intro echo time
  have hrise := layoutRises_of_inv hrate hrev
  obtain ⟨hcombed, -⟩ := reverbStep_sections hrise v
  obtain ⟨-, hetime, -⟩ := combed_registers s v
  obtain ⟨hin, -⟩ := echoTaps_inside hrate hrev
  have hcap := (hrise.end_bounds 6).2
  have htap : ∀ x, x ≤ time → echoTap (combed s v) x = echo x := fun x hle =>
    hcombed.echoTap_eq (r := rotate s cfg.line0) (show regionStart s 6 + x / 4096 + 1 < _ by omega)
  rw [(reverbStep_units s v).echo, rvEcho_taps, hetime, htap _ le_rfl, htap _ (by omega), htap _ (by omega)]
  exact ⟨rfl, rfl⟩

/-- The registers after RV.PROC: both destinations written, and all but the delay memory, the bank, YL and YR as it was. -/
theorem ReverbFrame.advance_setX {u : State cfg} (h : ReverbFrame s u) (rl rr : Reg) (a b : F32) :
    let t := advance (setX (setX u rl a) rr b)
    t = { s with
        x := t.x, dl := t.dl, op := t.op, rv := { s.rv with yl := t.rv.yl, yr := t.rv.yr }, pc := s.pc + 1 }
      ∧ t.x = (s.x.set rl a).set rr b := by
  obtain ⟨_, _, _, _, rfl⟩ := h.record
  exact ⟨rfl, rfl⟩

end Sys2Proof.Machine

namespace Sys2Proof.Proofs

open Sys2Proof.Machine

/-- Settles O58: the frame and the unit inputs from every state, and the sections in the order of their regions where the
invariants make the regions rise. -/
theorem reverbStepMixesAndFeedsBack : Obligations.ReverbStepMixesAndFeedsBack := by
  intro s rl rr rs1
  have hframe := reverbStep_frame s s.x[rs1]
  have hstores := regionStores_reverbStep s s.x[rs1]
  have hlines := cellsOfLine0_reverbStep s s.x[rs1]
  have hunits := reverbStep_units s s.x[rs1]
  have hblend := reverbStep_blend s s.x[rs1]
  obtain ⟨hrecord, hx⟩ := hframe.advance_setX rl rr (reverbStep s s.x[rs1]).2.1 (reverbStep s s.x[rs1]).2.2
  have hother := (hlines.others 1 (by decide)).trans (setCursor_other s _ (by decide))
  have hcell : ∀ g, memRead (reverbStep s s.x[rs1]).1 0 (dlIndex (rotate s 0) 0 (regionStart s g)) =
      readOffset (reverbStep s s.x[rs1]).1 0 (regionStart s g) := fun g =>
    congrArg (memRead (reverbStep s s.x[rs1]).1 0) (hstores.cursor _).symm
  refine ⟨_, (rvEcho (combed s s.x[rs1]) (rvTone s s.x[rs1]).2).2.1,
    (rvEcho (combed s s.x[rs1]) (rvTone s s.x[rs1]).2).2.2, rfl, hrecord, hx, hlines.cursor, hother, ?cells, ?bank,
    hunits.low, hunits.high, hunits.dampL, hunits.dampR, ?echoStored, ?sections⟩
  case cells => exact fun a ha => (hstores.cells 0 a fun _ => ha).trans (memRead_rotate s 0 0 a)
  case bank =>
    intro u
    obtain ⟨hfc, ha0⟩ := hframe.coefficients u
    exact ⟨hfc, ha0, reverbStep_op_of_le s s.x[rs1]⟩
  case echoStored =>
    intro hline
    have hstored := reverbStep_echoStored hline s.x[rs1]
    rw [hblend] at hstored
    exact (hcell 6).trans hstored
  case sections =>
    intro hrate hrev
    obtain ⟨hunit, hecho⟩ := reverbStep_echo hrate hrev s.x[rs1]
    obtain ⟨-, hend, hyl, hyr⟩ := reverbStep_sections (layoutRises_of_inv hrate hrev) s.x[rs1]
    have hvalue := fun hline g hg => (hcell g).trans (hend.stored (lineInv_rotate s 0 hline) g hg)
    have hstored : s.LineInv → _ ∧ _ ∧ _ ∧ _ ∧ _ ∧ _ := fun hline => ⟨hvalue hline 0 (by decide),
      hvalue hline 1 (by decide), hvalue hline 2 (by decide), hvalue hline 3 (by decide), hvalue hline 4 (by decide),
      hvalue hline 5 (by decide)⟩
    rw [← reverbStep_rv] at hyl hyr
    rw [hblend] at hstored hyl hyr
    simp only [sectionValues, regionOut, regionTap, allpassStore, allpassOut, Matrix.cons_val] at hstored hyl hyr
    exact ⟨hunit, congrArg Prod.fst hecho, congrArg Prod.snd hecho, hyl, hyr, hstored⟩

end Sys2Proof.Proofs
end

section
/-! SUPPORT. The exception on a presented word: what a command records of its own word is the word itself
(spec/60_exceptions.md R271). -/

namespace Sys2Proof.Machine

variable {cfg : Params}

/-- The step on a word whose command takes the exception is the exception on that word (R271): a word that decodes is the
word of its command (R101). -/
theorem stepAt_command_illegal {s : State cfg} {c : CommandWord} {rest : List HostEvent} {i : Instr}
    (hs : s.input = .command c :: rest) (hc : decodeAt cfg c = .ok i)
    (hi : execAt i { s with input := rest } = illegal i { s with input := rest }) :
    stepAt s = .next (raiseIllegal c { s with input := rest }) := by
  have hword : encode i = c := encode_of_decodeAt hc
  rw [stepAt_command_ok hs hc, hi, illegal, hword]

/-- WRREG of a value above 4 to an envelope ST register takes the exception (R62, R73, R127). -/
theorem exec_wrreg_envSt_illegal {s : State} {rs1 : Reg} (e : Fin Config.NENV) (h : 4 < s.x[rs1].toNat) :
    exec (.wrreg rs1 (regAddr 4 e 1)) s = illegal (.wrreg rs1 (regAddr 4 e 1)) s := by
  obtain ⟨-, -, -, henv, -⟩ := Proofs.registerMapWritesTheLegalisedValue s rs1
  obtain ⟨-, hlarge, -⟩ := henv e
  exact hlarge h

end Sys2Proof.Machine

namespace Sys2Proof.Proofs

open Sys2Proof.Machine

/-- Settles O6: a word that fails a decode check takes the exception in the step, one that WRREG refuses takes it in the
command, and both record the word presented. -/
theorem illegalCommandHasOnlyItsRecordedEffect : Obligations.IllegalCommandHasOnlyItsRecordedEffect := by
  intro s c rest hs
  constructor
  · intro e hc
    exact stepAt_command_error (cfg := Config.default) hs hc
  · intro rs1 e hc hlarge
    exact stepAt_command_illegal (cfg := Config.default) hs hc
      (exec_wrreg_envSt_illegal (s := { s with input := rest }) e hlarge)

end Sys2Proof.Proofs
end

section
/-! SUPPORT. Rounding and clamping keep the order (spec/00_scope.md R23, R27, R29), and the whole number that a knob
selects on a scale (spec/43_envelope.md R195, R196). -/

namespace Sys2Proof.Machine

open Sys2Proof.Laws

/-! ## Operations that keep the order -/

/-- The clamp keeps the order of its argument (R27). -/
theorem clampf_mono {x y lo hi : F32} (h : fle lo hi = true) (hxy : fle x y = true) :
    fle (clampf x lo hi) (clampf y lo hi) = true := by
  by_cases hlo : fle lo x = true
  · have hlo' : fle lo y = true := fle_trans hlo hxy
    by_cases hhi : fle y hi = true
    · rwa [clampf_of_inRange ⟨hlo, fle_trans hxy hhi⟩, clampf_of_inRange ⟨hlo', hhi⟩]
    · have hy : clampf y lo hi = hi := by rw [clampf, fge, if_pos hlo', if_neg hhi]
      rw [hy]
      exact (clampf_inRange h).2
  · rw [clampf, fge, if_neg hlo]
    exact (clampf_inRange h).1

/-- A larger number does not round to a smaller pattern: were it so, each of the two patterns would be nearest on the
far side of the other, and the numbers would be equal. -/
theorem roundIndex_mono {m n d : Nat} (hd : 0 < d) (h : m ≤ n) : roundIndex m d ≤ roundIndex n d := by
  by_contra hlt
  have hpatterns := unitsOfMag_strictMono (not_le.1 hlt)
  have hvalues := Nat.mul_lt_mul_of_pos_right hpatterns hd
  have hm := (roundIndex_nearest m (roundIndex n d) hd).1
  have hn := (roundIndex_nearest n (roundIndex m d) hd).1
  rw [← Nat.cast_mul, ← Nat.cast_mul] at hm hn
  have hmn : m = n := by omega
  exact hlt (hmn ▸ le_rfl)

theorem roundMag_mono {m n d : Nat} (hd : 0 < d) (h : m ≤ n) : roundMag m d ≤ roundMag n d :=
  min_le_min_right infMag (roundIndex_mono hd h)

/-- A product with a positive number keeps the order of the other factor (R23). -/
theorem fle_fmul_right {a b p : F32} (hp : positiveFinite p = true) (ha : fle fZero a = true) (hab : fle a b = true)
    (hb : isFinite b = true) : fle (fmul a p) (fmul b p) = true := by
  obtain ⟨hpfin, -, -⟩ := positiveFinite_iff.1 hp
  have hmag : fmag a ≤ fmag b := fmag_le_of_fle (fle_iff.1 ha).2.2 hab
  have hafin := isFinite_of_fmag_le hmag hb
  have hprod : fmag (fmul a p) ≤ fmag (fmul b p) := by
    rw [fmul_finite hafin hpfin, fmul_finite hb hpfin, fmag_pack_roundMag, fmag_pack_roundMag]
    exact roundMag_mono (Nat.two_pow_pos 149) (Nat.mul_le_mul_right _ (funits_le_of_fmag_le hmag))
  have hnonneg : ∀ {x : F32}, isFinite x = true → fle fZero x = true → fle fZero (fmul x p) = true := fun hx h0 =>
    fmul_comm hpfin hx ▸ fle_zero_fmul hp h0
  obtain ⟨-, hna, h0a⟩ := fle_iff.1 (hnonneg hafin ha)
  obtain ⟨-, hnb, h0b⟩ := fle_iff.1 (hnonneg hb (fle_trans ha hab))
  have hzero : forder fZero = 0 := by decide
  rw [fmag_eq_natAbs, fmag_eq_natAbs] at hprod
  exact fle_iff.2 ⟨hna, hnb, by omega⟩

/-- Rounding half away from zero, of a number that is not negative (R29). -/
theorem rhaz_of_nonneg {v : F32} (h : fle fZero v = true) : rhaz v = ((2 * funits v + 2 ^ 149) / 2 ^ 150 : Nat) := by
  obtain ⟨-, hnan, h0⟩ := fle_iff.1 h
  have hzero : forder fZero = 0 := by decide
  rw [rhaz, hnan, if_neg Bool.false_ne_true]
  cases hs : fsign v with
  | false => rfl
  | true =>
    have horder : forder v = -(fmag v : Int) := by rw [forder, hs, if_pos rfl]
    have hunits : funits v = 0 := by
      rw [funits, show fmag v = 0 by omega]
      rfl
    rw [hunits]
    decide

theorem rhaz_nonneg {v : F32} (h : fle fZero v = true) : 0 ≤ rhaz v := rhaz_of_nonneg h ▸ Int.natCast_nonneg _

theorem rhaz_mono {a b : F32} (ha : fle fZero a = true) (hab : fle a b = true) : rhaz a ≤ rhaz b := by
  have hunits := funits_le_of_fmag_le (fmag_le_of_fle (fle_iff.1 ha).2.2 hab)
  rw [rhaz_of_nonneg ha, rhaz_of_nonneg (fle_trans ha hab)]
  omega

/-! ## A knob on a scale -/

theorem isFinite_clamp01 (v : F32) : isFinite (clamp01 v) = true :=
  isFinite_of_fmag_le (fmag_le_of_unit (clamp01_inRange v)) (by decide)

theorem fle_zero_scaledKnob {p : F32} (hp : positiveFinite p = true) (v : F32) :
    fle fZero (fmul (clamp01 v) p) = true := by
  rw [fmul_comm (isFinite_clamp01 v) (positiveFinite_iff.1 hp).1]
  exact fle_zero_fmul hp (clamp01_inRange v).1

/-- A larger knob selects a number on the scale that is not smaller. -/
theorem scaledKnob_mono {p x y : F32} (hp : positiveFinite p = true) (h : fle x y = true) :
    rhaz (fmul (clamp01 x) p) ≤ rhaz (fmul (clamp01 y) p) :=
  rhaz_mono (fle_zero_scaledKnob hp x)
    (fle_fmul_right hp (clamp01_inRange x).1 (clampf_mono (by decide) h) (isFinite_clamp01 y))

/-- The table index is the number the knob selects on the scale of 127, no pattern being negative there (R196). -/
theorem knobIndex_cast (knob : F32) : (knobIndex knob : Int) = rhaz (fmul (clamp01 knob) f127) :=
  Int.toNat_of_nonneg (rhaz_nonneg (fle_zero_scaledKnob (by decide) knob))

theorem knobIndex_mono {x y : F32} (h : fle x y = true) : knobIndex x ≤ knobIndex y :=
  Int.toNat_le_toNat (scaledKnob_mono (by decide) h)

/-- A knob that is not above zero, a NaN included, selects the first entry. -/
theorem knobIndex_of_not_pos {knob : F32} (h : flt fZero knob = false) : knobIndex knob = 0 := by
  have hzero : knobIndex fZero = 0 := by decide
  cases hnan : isNaN knob with
  | true => rw [knobIndex, clamp01, clampf_nan hnan]; exact hzero
  | false =>
    have hle : fle knob fZero = true := by_contra fun hle => by
      rw [flt_of_not_fle hnan (by decide) hle] at h
      cases h
    exact Nat.le_zero.1 (hzero ▸ knobIndex_mono hle)

/-- A knob that is not below one selects the last. -/
theorem knobIndex_of_one_le {knob : F32} (h : fle fOne knob = true) : knobIndex knob = 127 := by
  have hone : knobIndex fOne = 127 := by decide
  exact le_antisymm (knobIndex_le knob) (hone ▸ knobIndex_mono h)

/-- The sustain level is the number the knob selects on the scale of 65535 (R195). -/
theorem sustainOfKnob_eq (knob : F32) : sustainOfKnob knob = BitVec.ofInt 16 (rhaz (fmul (clamp01 knob) f65535)) := by
  have hcast : ((rhaz (fmul (clamp01 knob) f65535)).toNat : Int) = rhaz (fmul (clamp01 knob) f65535) :=
    Int.toNat_of_nonneg (rhaz_nonneg (fle_zero_scaledKnob (by decide) knob))
  rw [sustainOfKnob, ← BitVec.ofInt_natCast, hcast]

/-! ## The time table (R191) -/

/-- An accepted table does not rise. -/
theorem timeTable_antitone (cfg : Params) {i : Nat} (h : i < 127) :
    cfg.timeTable.getD (i + 1) 0 ≤ cfg.timeTable.getD i 0 := by
  have hok := cfg.timeTable_ok
  simp only [timeTableOk, Bool.and_eq_true, List.all_eq_true, decide_eq_true_eq] at hok
  obtain ⟨⟨hlen, -⟩, hpairs⟩ := hok
  have hi : i < (cfg.timeTable.zip cfg.timeTable.tail).length := by
    rw [List.length_zip, List.length_tail]
    omega
  have hpair := hpairs _ (List.getElem_mem hi)
  rw [List.getElem_zip, List.getElem_tail] at hpair
  rwa [List.getD_eq_getElem _ _ (by omega), List.getD_eq_getElem _ _ (by omega)]

theorem timeTable_entry_bounds (cfg : Params) {i : Nat} (h : i < 128) :
    1 ≤ cfg.timeTable.getD i 0 ∧ cfg.timeTable.getD i 0 ≤ 65535 := by
  have hi : i < cfg.timeTable.length := by rwa [timeTable_length]
  rw [List.getD_eq_getElem _ _ hi]
  exact timeTable_bounds (List.getElem_mem hi)

/-- The check value of R192. -/
theorem defaultTimeTable_sum : Config.timeTable.sum = 1000135 := by
  have hrows : Config.timeRows0.sum = 885898 ∧ Config.timeRows4.sum = 101320 ∧ Config.timeRows8.sum = 11590
      ∧ Config.timeRows12.sum = 1327 := by decide
  obtain ⟨h0, h4, h8, h12⟩ := hrows
  rw [Config.timeTable, List.sum_append, List.sum_append, List.sum_append, h0, h4, h8, h12]

/-- The step that TLOOKUP answers is the entry itself (R196). -/
theorem stepOfKnob_setWidth (cfg : Params) (knob : F32) :
    (stepOfKnob cfg knob).setWidth 32 = BitVec.ofNat 32 (cfg.timeTable.getD (knobIndex knob) 0) :=
  timeStep_setWidth cfg ⟨knobIndex knob, Nat.lt_succ_of_le (knobIndex_le knob)⟩

end Sys2Proof.Machine

namespace Sys2Proof.Proofs

open Sys2Proof.Machine

/-- Settles O43: the constraints of every accepted table, the default's among them, and the default's two ends and
sum. -/
theorem timeTableMeetsItsConstraints : Obligations.TimeTableMeetsItsConstraints := by
  have haccepted : ∀ cfg : Params, cfg.timeTable.length = 128
      ∧ (∀ i : Nat, i < 128 → 1 ≤ cfg.timeTable.getD i 0 ∧ cfg.timeTable.getD i 0 ≤ 65535)
      ∧ (∀ i : Nat, i < 127 → cfg.timeTable.getD (i + 1) 0 ≤ cfg.timeTable.getD i 0) := fun cfg =>
    ⟨timeTable_length cfg, fun _ hi => timeTable_entry_bounds cfg hi, fun _ hi => timeTable_antitone cfg hi⟩
  obtain ⟨hlength, hbounds, hfalls⟩ := haccepted Config.default
  exact ⟨hlength, hbounds, hfalls, by decide, by decide, defaultTimeTable_sum, haccepted⟩

/-- Settles O44: the index of the knob, its two ends, and its order. -/
theorem lookupSelectsATableEntry : Obligations.LookupSelectsATableEntry := by
  intro s rd rs1
  refine ⟨knobIndex s.x[rs1], knobIndex_le _, ?entry, knobIndex_cast _, knobIndex_of_not_pos, knobIndex_of_one_le,
    fun v hv => ?order⟩
  case entry =>
    have hstep := stepOfKnob_setWidth Config.default s.x[rs1]
    exact congrArg (fun w => complete (setX s rd w)) hstep
  case order => exact (knobIndex_cast _).trans_le (scaledKnob_mono (by decide) hv)

end Sys2Proof.Proofs
end

section
/-! SUPPORT. The envelope commands (spec/43_envelope.md): the equation of each command on a selected unit, a tick by the
state it reaches on natural numbers (R197), and a run of ticks (R202, R203). -/

namespace Sys2Proof.Machine

variable {cfg : Params}

/-! ## The commands of a selected envelope -/

theorem unitOf_nenv (e : Fin Config.NENV) : unitOf Config.default.nenv (unitField e) = some e :=
  unitOf_unitField (by decide) e

section

variable {f : UnitField} {e : Fin cfg.nenv} (h : unitOf cfg.nenv f = some e)

include h

theorem execEnvMode_unit (m : EnvMode) (s : State cfg) :
    execEnvMode f m s = complete (setEnv s e (switchMode s.env[e] m)) := by simp only [execEnvMode, h]

theorem execEnvTime_unit (sel : TimeSel) (rs1 : Reg) (s : State cfg) :
    execEnvTime f sel rs1 s = complete (setEnv s e (setStep s.env[e] sel (stepOfKnob cfg s.x[rs1]))) := by
  simp only [execEnvTime, h, getX]

theorem execEnvSus_unit (rs1 : Reg) (s : State cfg) :
    execEnvSus f rs1 s = complete (setEnv s e { s.env[e] with sus := sustainOfKnob s.x[rs1] }) := by
  simp only [execEnvSus, h, getX]

theorem execEnvTick_unit (rd : Reg) (gate : Bool) (s : State cfg) :
    execEnvTick rd f gate s = complete (setX (setEnv s e (envelopeTick s.env[e] gate)) rd
      (envelopeTick s.env[e] gate).level) := by simp only [execEnvTick, h]

theorem execEnvRdf_unit (rd : Reg) (s : State cfg) :
    execEnvRdf rd f s = complete (setX s rd (fdiv (i2f s.env[e].level.toInt) f65535)) := by simp only [execEnvRdf, h]

theorem execEnvRst_unit (s : State cfg) :
    execEnvRst f s = complete (setEnv s e { s.env[e] with st := .idle, level := 0#32, gate := false }) := by
  simp only [execEnvRst, h]

end

/-- Replacing a unit by itself changes nothing. -/
theorem setEnv_self (s : State cfg) (e : Fin cfg.nenv) : setEnv s e s.env[e] = s := by
  rw [setEnv, show s.env.set e s.env[e] = s.env from Vector.set_getElem_self _]

/-- ENV.MODE with the mode in force only advances pc; a new mode goes to Idle at level 0 (R193). -/
theorem complete_setEnv_switchMode (s : State cfg) (e : Fin cfg.nenv) (m : EnvMode) :
    complete (setEnv s e (switchMode s.env[e] m)) = .next (if m = s.env[e].mode then { s with pc := s.pc + 1 }
      else { s with env := s.env.set e { s.env[e] with mode := m, st := .idle, level := 0#32 }, pc := s.pc + 1 }) := by
  unfold switchMode
  split
  · rw [setEnv_self]
    rfl
  · rfl

/-! ## One tick (R197) -/

/-- The edge rules, with the states a falling gate leaves alone named instead of those it releases. -/
theorem edgeState_eq (v : Envelope) (gate : Bool) :
    edgeState v gate =
      if v.mode = .lfo then (if v.st = .idle ∧ gate = true then .attack else v.st)
      else if gate = true ∧ v.gate = false then .attack
      else if gate = false ∧ v.gate = true ∧ v.st ≠ .idle ∧ v.st ≠ .release then .release
      else v.st := by
  have hreleased : (v.st = .attack ∨ v.st = .decay ∨ v.st = .sustain) ↔ v.st ≠ .idle ∧ v.st ≠ .release := by
    cases v.st <;> decide
  unfold edgeState
  cases hmode : v.mode <;> simp only [hreleased, if_true, reduceCtorEq, if_false]

/-- With the gate at its latched level there is no edge; only an armed LFO leaves Idle. -/
theorem edgeState_latched {v : Envelope} (h : v.st ≠ .idle) : edgeState v v.gate = v.st := by
  rw [edgeState_eq]
  cases v.gate <;> simp [h]

/-- What the action of a state makes of a level, as a natural number, and the state it leaves (R197). -/
def tickOutcome (v : Envelope) (l : Nat) (st : EnvState) : Nat × EnvState :=
  match st with
  | .idle => (l, .idle)
  | .attack =>
    if 65535 < l + v.astep.toNat then (65535, if v.mode = .adsr then .decay else .release)
    else (l + v.astep.toNat, .attack)
  | .decay => if l < v.sus.toNat + v.dstep.toNat then (v.sus.toNat, .sustain) else (l - v.dstep.toNat, .decay)
  | .sustain => (v.sus.toNat, .sustain)
  | .release => if l < v.rstep.toNat then (0, .idle) else (l - v.rstep.toNat, .release)

section

variable {v : Envelope} {l : Nat}

theorem tickOutcome_attack_rising (h : l + v.astep.toNat ≤ 65535) :
    tickOutcome v l .attack = (l + v.astep.toNat, .attack) := if_neg (not_lt.2 h)

theorem tickOutcome_attack_top (h : 65535 < l + v.astep.toNat) :
    tickOutcome v l .attack = (65535, if v.mode = .adsr then .decay else .release) := if_pos h

theorem tickOutcome_decay_falling (h : v.sus.toNat + v.dstep.toNat ≤ l) :
    tickOutcome v l .decay = (l - v.dstep.toNat, .decay) := if_neg (not_lt.2 h)

theorem tickOutcome_decay_sustain (h : l < v.sus.toNat + v.dstep.toNat) :
    tickOutcome v l .decay = (v.sus.toNat, .sustain) := if_pos h

theorem tickOutcome_release_falling (h : v.rstep.toNat ≤ l) :
    tickOutcome v l .release = (l - v.rstep.toNat, .release) := if_neg (not_lt.2 h)

theorem tickOutcome_release_bottom (h : l < v.rstep.toNat) : tickOutcome v l .release = (0, .idle) := if_pos h

/-- The action keeps the level in range (R19). -/
theorem tickOutcome_le (h : l ≤ 65535) (st : EnvState) : (tickOutcome v l st).1 ≤ 65535 := by
  have hsus := v.sus.isLt
  unfold tickOutcome
  cases st with
  | idle => exact h
  | sustain => exact Nat.le_of_lt_succ hsus
  | attack | decay | release =>
    dsimp only
    split
    all_goals
      dsimp only
      omega

end

/-- The model's action, on exact integers, is the outcome on natural numbers: a level in range is not negative, and the
comparisons take no difference that is. -/
theorem tickAction_eq {v : Envelope} (h : v.level.toNat ≤ 65535) :
    tickAction v = { v with
      st := (tickOutcome v v.level.toNat v.st).2
      level := BitVec.ofNat 32 (tickOutcome v v.level.toNat v.st).1 } := by
  have hint := level_toInt h
  have hsub : ∀ n : Nat, n ≤ v.level.toNat →
      BitVec.ofInt 32 ((v.level.toNat : Int) - n) = BitVec.ofNat 32 (v.level.toNat - n) := fun n hn => by
    rw [← Int.ofNat_sub hn, BitVec.ofInt_natCast]
  obtain ⟨mode, st, level, astep, dstep, rstep, sus, gate⟩ := v
  dsimp only at h hint hsub
  cases st with
  | idle => simp only [tickAction, tickOutcome, BitVec.ofNat_toNat, BitVec.setWidth_eq]
  | sustain => simp only [tickAction, tickOutcome, BitVec.ofNat_toNat]
  | attack =>
    simp only [tickAction, hint]
    by_cases htop : 65535 < level.toNat + astep.toNat
    · rw [if_pos (by omega), tickOutcome_attack_top htop]
      cases mode <;> rfl
    · rw [if_neg (by omega), tickOutcome_attack_rising (not_lt.1 htop), ← Int.natCast_add, BitVec.ofInt_natCast]
  | decay =>
    simp only [tickAction, hint]
    by_cases hend : level.toNat < sus.toNat + dstep.toNat
    · rw [if_pos (by omega), tickOutcome_decay_sustain hend, BitVec.ofNat_toNat]
    · rw [if_neg (by omega), tickOutcome_decay_falling (not_lt.1 hend), hsub _ (by omega)]
  | release =>
    simp only [tickAction, hint]
    by_cases hend : level.toNat < rstep.toNat
    · rw [if_pos (by omega), tickOutcome_release_bottom hend]
    · rw [if_neg (by omega), tickOutcome_release_falling (not_lt.1 hend), hsub _ (by omega)]

/-- One tick: the gate is latched, the edge rules give a state, and the action of that state runs (R197). -/
theorem envelopeTick_eq {v : Envelope} (h : v.level.toNat ≤ 65535) (gate : Bool) :
    envelopeTick v gate = { v with
      gate := gate, st := (tickOutcome v v.level.toNat (edgeState v gate)).2
      level := BitVec.ofNat 32 (tickOutcome v v.level.toNat (edgeState v gate)).1 } :=
  tickAction_eq (v := { v with gate := gate, st := edgeState v gate }) h

theorem level_ofNat_toNat {l : Nat} (h : l ≤ 65535) : (BitVec.ofNat 32 l).toNat = l := by
  rw [BitVec.toNat_ofNat]
  omega

/-- A tick at a level, with the gate as it was latched, of a unit that is not idle: the action of the state it is in. -/
theorem envelopeTick_latched {v : Envelope} {l : Nat} (h : l ≤ 65535) (hst : v.st ≠ .idle) :
    envelopeTick { v with level := BitVec.ofNat 32 l } v.gate = { v with
      st := (tickOutcome v l v.st).2, level := BitVec.ofNat 32 (tickOutcome v l v.st).1 } := by
  have hlevel := level_ofNat_toNat h
  have htick := envelopeTick_eq (v := { v with level := BitVec.ofNat 32 l }) (hlevel.trans_le h) v.gate
  rw [edgeState_latched (v := { v with level := BitVec.ofNat 32 l }) hst, hlevel] at htick
  exact htick

/-- A tick in Sustain, whatever the level was: the level is SUS (R202). -/
theorem envelopeTick_sustain {v : Envelope} (hst : v.st = .sustain) :
    envelopeTick v v.gate = { v with level := v.sus.setWidth 32 } := by
  have hedge : edgeState v v.gate = .sustain := by rw [edgeState_latched (by rw [hst]; decide), hst]
  have haction : envelopeTick v v.gate = { v with st := .sustain, level := v.sus.setWidth 32 } := by
    rw [envelopeTick, hedge]
    rfl
  rw [haction, ← hst]

/-- A tick in Decay compares the level less a step with SUS as it is at that tick (R202). -/
theorem envelopeTick_decay {v : Envelope} (hst : v.st = .decay) (hl : v.level.toNat ≤ 65535) :
    (v.sus.toNat + v.dstep.toNat ≤ v.level.toNat → envelopeTick v v.gate = { v with
      level := BitVec.ofNat 32 (v.level.toNat - v.dstep.toNat) })
    ∧ (v.level.toNat < v.sus.toNat + v.dstep.toNat → envelopeTick v v.gate = { v with
      st := .sustain, level := v.sus.setWidth 32 }) := by
  have htick := envelopeTick_eq hl v.gate
  rw [edgeState_latched (by rw [hst]; decide), hst] at htick
  constructor
  · intro hbelow
    rw [htick, tickOutcome_decay_falling hbelow, ← hst]
  · intro habove
    rw [htick, tickOutcome_decay_sustain habove, BitVec.ofNat_toNat]

/-! ## Runs (R202, R203) -/

/-- A tick leaves the unit's next state in the bank and its level in the destination. -/
theorem exec_envTick (s : State) (e : Fin Config.NENV) (rd : Reg) (gate : Bool) :
    ∃ t, exec (.envTick rd (unitField e) gate) s = .next t ∧ t.env[e] = envelopeTick s.env[e] gate
      ∧ t.x[rd] = (envelopeTick s.env[e] gate).level :=
  ⟨_, execEnvTick_unit (unitOf_nenv e) rd gate s, vector_set_self .., vector_set_self ..⟩

/-- A tick after an ENV.SUS is a tick of the unit with the new sustain level. -/
theorem execAll_envSus_envTick (s : State) (e : Fin Config.NENV) (rd rs1 : Reg) (gate : Bool) :
    ∃ t, execAll [.envSus (unitField e) rs1, .envTick rd (unitField e) gate] s = .next t
      ∧ t.env[e] = envelopeTick { s.env[e] with sus := sustainOfKnob s.x[rs1] } gate ∧ t.env[e].level = t.x[rd] := by
  have hsus : exec (.envSus (unitField e) rs1) s
      = complete (setEnv s e { s.env[e] with sus := sustainOfKnob s.x[rs1] }) := execEnvSus_unit (unitOf_nenv e) rs1 s
  obtain ⟨t, ht, henv, hx⟩ :=
    exec_envTick (advance (setEnv s e { s.env[e] with sus := sustainOfKnob s.x[rs1] })) e rd gate
  rw [advance_env, setEnv_env, vector_set_self] at henv hx
  refine ⟨t, ?_, henv, by rw [henv, hx]⟩
  simp only [execAll, hsus, complete, ht]

/-- A run of ticks with one gate level iterates the tick of the unit. -/
theorem execAll_envTick (e : Fin Config.NENV) (rd : Reg) (gate : Bool) (n : Nat) (s : State) :
    ∃ t, execAll (List.replicate n (.envTick rd (unitField e) gate)) s = .next t
      ∧ t.env[e] = (envelopeTick · gate)^[n] s.env[e] := by
  induction n generalizing s with
  | zero => exact ⟨s, rfl, rfl⟩
  | succ n ih =>
    obtain ⟨u, hexec, hunit, -⟩ := exec_envTick s e rd gate
    obtain ⟨t, ht, henv⟩ := ih u
    refine ⟨t, by rw [List.replicate_succ, execAll, hexec]; exact ht, ?_⟩
    rw [henv, hunit, Function.iterate_succ_apply]

/-- A segment of an envelope: while the action moves the level along `level` and keeps the state, so does the run; one
tick more is the action at the last of these levels. -/
theorem ticks_segment {v : Envelope} (hst : v.st ≠ .idle) {level : Nat → Nat} (hstart : level 0 = v.level.toNat)
    {last : Nat} (hrange : ∀ k ≤ last, level k ≤ 65535)
    (hmove : ∀ k < last, tickOutcome v (level k) v.st = (level (k + 1), v.st)) :
    (∀ n ≤ last, (envelopeTick · v.gate)^[n] v = { v with level := BitVec.ofNat 32 (level n) })
      ∧ (envelopeTick · v.gate)^[last + 1] v = { v with
        st := (tickOutcome v (level last) v.st).2, level := BitVec.ofNat 32 (tickOutcome v (level last) v.st).1 } := by
  have hrun : ∀ n ≤ last, (envelopeTick · v.gate)^[n] v = { v with level := BitVec.ofNat 32 (level n) } := by
    intro n hn
    induction n with
    | zero => rw [hstart, BitVec.ofNat_toNat, BitVec.setWidth_eq, Function.iterate_zero_apply]
    | succ n ih =>
      rw [Function.iterate_succ_apply', ih (by omega), envelopeTick_latched (hrange n (by omega)) hst,
        hmove n (by omega)]
  refine ⟨hrun, ?_⟩
  rw [Function.iterate_succ_apply', hrun last le_rfl, envelopeTick_latched (hrange last le_rfl) hst]

/-- Attack rises by ASTEP a tick and leaves at the top (R203). -/
theorem ticks_attack {v : Envelope} (hst : v.st = .attack) (hl : v.level.toNat ≤ 65535) (ha : 1 ≤ v.astep.toNat) :
    (∀ n ≤ (65535 - v.level.toNat) / v.astep.toNat,
      (envelopeTick · v.gate)^[n] v = { v with level := BitVec.ofNat 32 (v.level.toNat + n * v.astep.toNat) }
        ∧ v.level.toNat + n * v.astep.toNat ≤ 65535)
    ∧ (envelopeTick · v.gate)^[(65535 - v.level.toNat) / v.astep.toNat + 1] v = { v with
      st := if v.mode = .adsr then .decay else .release, level := 65535#32 } := by
  have hwithin : ∀ k ≤ (65535 - v.level.toNat) / v.astep.toNat, v.level.toNat + k * v.astep.toNat ≤ 65535 :=
    fun k hk => by
      have := (Nat.le_div_iff_mul_le ha).1 hk
      omega
  obtain ⟨hrun, hend⟩ := ticks_segment (level := fun k => v.level.toNat + k * v.astep.toNat) (by rw [hst]; decide)
    (by simp only [Nat.zero_mul, Nat.add_zero]) hwithin fun k hk => by
      have hnext := hwithin (k + 1) hk
      rw [Nat.succ_mul, ← Nat.add_assoc] at hnext
      rw [hst, tickOutcome_attack_rising hnext, Nat.succ_mul, Nat.add_assoc]
  refine ⟨fun n hn => ⟨hrun n hn, hwithin n hn⟩, ?_⟩
  have hover := Nat.lt_div_mul_add (a := 65535 - v.level.toNat) ha
  rw [hend, hst, tickOutcome_attack_top (by omega)]

/-- Release falls by RSTEP a tick and ends at zero (R203). -/
theorem ticks_release {v : Envelope} (hst : v.st = .release) (hl : v.level.toNat ≤ 65535) (hr : 1 ≤ v.rstep.toNat) :
    (∀ n ≤ v.level.toNat / v.rstep.toNat,
      (envelopeTick · v.gate)^[n] v = { v with level := BitVec.ofNat 32 (v.level.toNat - n * v.rstep.toNat) })
    ∧ (envelopeTick · v.gate)^[v.level.toNat / v.rstep.toNat + 1] v = { v with st := .idle, level := 0#32 } := by
  obtain ⟨hrun, hend⟩ := ticks_segment (level := fun k => v.level.toNat - k * v.rstep.toNat) (by rw [hst]; decide)
    (by simp only [Nat.zero_mul, Nat.sub_zero]) (last := v.level.toNat / v.rstep.toNat)
    (fun k _ => (Nat.sub_le _ _).trans hl) fun k hk => by
      have hnext := (Nat.le_div_iff_mul_le hr).1 (Nat.succ_le_of_lt hk)
      rw [Nat.succ_mul] at hnext
      rw [hst, tickOutcome_release_falling (by omega), Nat.succ_mul, Nat.sub_sub]
  refine ⟨hrun, ?_⟩
  have hover := Nat.lt_div_mul_add (a := v.level.toNat) hr
  rw [hend, hst, tickOutcome_release_bottom (by omega)]

/-- Decay from the top falls by DSTEP a tick and ends in Sustain (R203). -/
theorem ticks_decay {v : Envelope} (hst : v.st = .decay) (hl : v.level = 65535#32) (hd : 1 ≤ v.dstep.toNat) :
    (∀ n ≤ (65535 - v.sus.toNat) / v.dstep.toNat,
      (envelopeTick · v.gate)^[n] v = { v with level := BitVec.ofNat 32 (65535 - n * v.dstep.toNat) })
    ∧ (envelopeTick · v.gate)^[(65535 - v.sus.toNat) / v.dstep.toNat + 1] v = { v with
      st := .sustain, level := v.sus.setWidth 32 } := by
  have hsus := v.sus.isLt
  obtain ⟨hrun, hend⟩ := ticks_segment (level := fun k => 65535 - k * v.dstep.toNat) (by rw [hst]; decide)
    (by simp only [hl, Nat.zero_mul, Nat.sub_zero]; rfl) (last := (65535 - v.sus.toNat) / v.dstep.toNat)
    (fun k _ => Nat.sub_le _ _) fun k hk => by
      have hnext := (Nat.le_div_iff_mul_le hd).1 (Nat.succ_le_of_lt hk)
      rw [Nat.succ_mul] at hnext
      rw [hst, tickOutcome_decay_falling (by omega), Nat.succ_mul, Nat.sub_sub]
  refine ⟨hrun, ?_⟩
  have hover := Nat.lt_div_mul_add (a := 65535 - v.sus.toNat) hd
  rw [hend, hst, tickOutcome_decay_sustain (by omega), BitVec.ofNat_toNat]

end Sys2Proof.Machine

namespace Sys2Proof.Proofs

open Sys2Proof.Machine

/-- Settles O45: the equation of each command on the unit, the step and the sustain level by the number the knob
selects. -/
theorem envelopeConfigurationAndReadout : Obligations.EnvelopeConfigurationAndReadout := by
  intro s e m rd rs1 index step
  have hunit := unitOf_nenv e
  refine ⟨?mode, execEnvTime_unit hunit .attack rs1 s, execEnvTime_unit hunit .decay rs1 s,
    execEnvTime_unit hunit .release rs1 s, ?sustain, execEnvRst_unit hunit s, execEnvRdf_unit hunit rd s⟩
  case mode => exact (execEnvMode_unit hunit m s).trans (complete_setEnv_switchMode s e m)
  case sustain =>
    have hsus := execEnvSus_unit hunit rs1 s
    rw [sustainOfKnob_eq] at hsus
    exact hsus

/-- Settles O46: the tick of the unit, by the edge rules and the action on natural numbers. -/
theorem envelopeTickFollowsTheStateMachine : Obligations.EnvelopeTickFollowsTheStateMachine := by
  intro s e rd gate hl v l reached out
  have htick : envelopeTick s.env[e] gate = { v with gate := gate, st := out.2, level := BitVec.ofNat 32 out.1 } := by
    rw [envelopeTick_eq hl, edgeState_eq]
    rfl
  have hexec := execEnvTick_unit (unitOf_nenv e) rd gate s
  rw [htick] at hexec
  exact ⟨tickOutcome_le hl reached, hexec⟩

/-- Settles O47: the run of ticks by the segment of the state it starts in; the two lengths from the ends of the
table. -/
theorem segmentLengthsInTicks : Obligations.SegmentLengthsInTicks := by
  refine ⟨fun s e rd n hl => ?_, by decide, by decide⟩
  intro v run
  obtain ⟨t, ht, henv⟩ := execAll_envTick e rd v.gate n s
  refine ⟨fun hst ha => ?attack, fun hst hr => ?release, fun hst hd htop => ?decay⟩
  case attack =>
    obtain ⟨hrun, hend⟩ := ticks_attack hst hl ha
    refine ⟨fun hn => ⟨t, ht, ?_⟩, fun hn => ⟨t, ht, ?_⟩⟩
    · obtain ⟨hticks, hle⟩ := hrun n hn
      rw [henv, hticks]
      exact ⟨hst, level_ofNat_toNat hle⟩
    · subst hn
      rw [henv, hend]
      exact ⟨rfl, rfl⟩
  case release =>
    obtain ⟨hrun, hend⟩ := ticks_release hst hl hr
    refine ⟨fun hn => ⟨t, ht, ?_⟩, fun hn => ⟨t, ht, ?_⟩⟩
    · rw [henv, hrun n hn]
      exact ⟨hst, level_ofNat_toNat ((Nat.sub_le _ _).trans hl)⟩
    · subst hn
      rw [henv, hend]
      exact ⟨rfl, rfl⟩
  case decay =>
    obtain ⟨hrun, hend⟩ := ticks_decay hst htop hd
    refine ⟨fun hn => ⟨t, ht, ?_⟩, fun hn => ⟨t, ht, ?_⟩⟩
    · rw [henv, hrun n hn]
      exact ⟨hst, level_ofNat_toNat (Nat.sub_le _ _)⟩
    · subst hn
      rw [henv, hend]
      exact ⟨rfl, BitVec.toNat_setWidth_of_le (by decide)⟩

/-- Settles O48: a tick in Sustain by the unit, before and after an ENV.SUS; a tick in Decay by whether the level less a
step stays at or above the new target. -/
theorem sustainTracksTheKnob : Obligations.SustainTracksTheKnob := by
  intro s e rd rs1 v sus tick
  let retargeted : Envelope := { v with sus := sustainOfKnob s.x[rs1] }
  have hsus : sus.toNat = retargeted.sus.toNat := BitVec.toNat_setWidth_of_le (by decide)
  obtain ⟨t, ht, henv, hx⟩ := execAll_envSus_envTick s e rd rs1 v.gate
  have hunit : t.env[e] = envelopeTick retargeted retargeted.gate := henv
  refine ⟨fun hst => ⟨?sustain, t, ht, ?changed⟩, fun hst hl => ⟨t, ht, hx, ?decay⟩⟩
  case sustain =>
    obtain ⟨u, hu, huenv, hux⟩ := exec_envTick s e rd v.gate
    rw [envelopeTick_sustain hst] at huenv hux
    exact ⟨u, hu, hux, by rw [huenv]; exact hst, by rw [huenv, hux]⟩
  case changed =>
    rw [← hx, hunit, envelopeTick_sustain (v := retargeted) hst]
    exact ⟨rfl, hst, rfl⟩
  case decay =>
    obtain ⟨hfalls, hclamps⟩ := envelopeTick_decay (v := retargeted) hst hl
    rw [← hx, hunit]
    refine ⟨fun hbelow => ?_, fun habove => ?_⟩
    · rw [hfalls (hsus ▸ hbelow)]
      exact ⟨level_ofNat_toNat ((Nat.sub_le _ _).trans hl), hst⟩
    · rw [hclamps (Nat.lt_add_right _ (hsus ▸ habove))]
      exact ⟨rfl, rfl⟩

end Sys2Proof.Proofs
end
